-- ==== Sys2Proof/Word.lean ====
section
/-! DEFINITION. The word types of the block (R9, R80) and the character codes of R16. -/

namespace Sys2Proof

/-- One input byte (R9). -/
abbrev Byte := BitVec 8

/-- A 64-bit value: a command's argument (R80), a measured value, a time, a register (R9). -/
abbrev Word := BitVec 64

/-- A command word, `op = [71:64]`, `arg = [63:0]` (R80). -/
abbrev CmdWord := BitVec 72

/-- The byte of a character (R16: the 8-bit code of the character). -/
abbrev asciiByte (c : Char) : Byte := BitVec.ofNat 8 c.toNat

/-- The bytes of a list of characters. -/
abbrev asciiBytes (cs : List Char) : List Byte := cs.map asciiByte

/-- `'/'`, the start marker (R8, R16). -/
abbrev chSlash : Byte := 0x2F#8
/-- `'!'`, the end marker (R8, R16). -/
abbrev chBang : Byte := 0x21#8
/-- CR (R16). -/
abbrev chCR : Byte := 0x0D#8
/-- LF (R16). -/
abbrev chLF : Byte := 0x0A#8
/-- `'('` (R16). -/
abbrev chLParen : Byte := 0x28#8
/-- `')'` (R16). -/
abbrev chRParen : Byte := 0x29#8
/-- `'*'` (R16). -/
abbrev chStar : Byte := 0x2A#8
/-- `'.'` (R16). -/
abbrev chDot : Byte := 0x2E#8

end Sys2Proof
end

