-- ==== Sys2Proof/Syntax.lean ====
section
/-! DEFINITION. The commands of the block: one constructor per row of the opcode table (R82). `EVAL` has no encoding
(R85) and is no constructor. -/

namespace Sys2Proof

/-- The commands the Host can issue (R82), with their operands (R83). -/
inductive Instr where
  /-- `NOP` (R260). -/
  | nop
  /-- `FEED b` (R131). -/
  | feed (b : Byte)
  /-- `SETNOW t` (R261). -/
  | setnow (t : Word)
  /-- `POP` (R238). -/
  | pop
  /-- `RDREG idx` (R262). -/
  | rdreg (idx : Byte)
  /-- `CLRSTAT` (R264). -/
  | clrstat
  /-- `SRESET` (R265). -/
  | sreset
  deriving DecidableEq, Repr

end Sys2Proof
end

