-- ==== Sys2Proof/WellFormed.lean ====
section
/-! DEFINITION. Which commands are legal as syntax (R84): the operand checks that are not about encoding bits. -/

namespace Sys2Proof

/-- A command whose operand is legal (R84 items 4 and 5). Every operand of the other commands is legal. -/
def Instr.wf : Instr → Bool
  | .nop => true
  | .feed _ => true
  | .setnow t => t != 0xFFFFFFFFFFFFFFFF#64
  | .pop => true
  | .rdreg idx => decide (idx.toNat < 15)
  | .clrstat => true
  | .sreset => true

end Sys2Proof
end

