-- ==== Sys2Proof/Decode.lean ====
section
/-! DEFINITION. The decoder, total on any 72-bit command word, rejecting an illegal word by name (R80 to R84), and the
encoder written from the same table. A command carries whole values: no byte order applies to it (R64 item 6). -/

namespace Sys2Proof

/-- Why a command word is illegal: the items of R84. -/
inductive Illegal where
  /-- `op` in 0x07..0xFF (R84 item 1, R266). -/
  | reservedOpcode
  /-- A must-be-zero bit is set (R84 items 2 and 3, R267). -/
  | mustBeZero
  /-- `SETNOW` of 2^64 - 1 (R84 item 4, R267). -/
  | reservedTime
  /-- `RDREG` of an index of 15 or more (R84 item 5, R263). -/
  | reservedIndex
  deriving DecidableEq, Repr

/-- What the decoder makes of a command word. -/
inductive Decoded where
  /-- A legal command. -/
  | command (i : Instr)
  /-- An illegal word, with its reason. -/
  | illegal (why : Illegal)
  deriving DecidableEq, Repr

/-- The opcode field `op = [71:64]` (R80). -/
def opOf (w : CmdWord) : Byte := w.extractLsb' 64 8

/-- The argument field `arg = [63:0]` (R80). -/
def argOf (w : CmdWord) : Word := w.extractLsb' 0 64

/-- The operand `arg[7:0]` of `FEED` and `RDREG` (R83). -/
def argByte (arg : Word) : Byte := arg.extractLsb' 0 8

/-- The must-be-zero field `arg[63:8]` of `FEED` and `RDREG` (R82). -/
def argHigh (arg : Word) : BitVec 56 := arg.extractLsb' 8 56

/-- The opcodes of R82. -/
def opNop : Byte := 0x00#8
def opFeed : Byte := 0x01#8
def opSetnow : Byte := 0x02#8
def opPop : Byte := 0x03#8
def opRdreg : Byte := 0x04#8
def opClrstat : Byte := 0x05#8
def opSreset : Byte := 0x06#8

/-- A time `SETNOW` accepts (R84 item 4). -/
def timeLegal (t : Word) : Bool := t != 0xFFFFFFFFFFFFFFFF#64

/-- A register index `RDREG` accepts (R84 item 5). -/
def indexLegal (idx : Byte) : Bool := decide (idx.toNat < 15)

/-- A command without operand: its whole argument must be 0 (R84 item 3). -/
def decodeBare (i : Instr) (arg : Word) : Decoded :=
  if arg = 0#64 then .command i else .illegal .mustBeZero

/-- The decoder (R82 to R84). -/
def decode (w : CmdWord) : Decoded :=
  let op := opOf w
  let arg := argOf w
  if op = opNop then decodeBare .nop arg
  else if op = opFeed then
    if argHigh arg = 0#56 then .command (.feed (argByte arg)) else .illegal .mustBeZero
  else if op = opSetnow then
    if timeLegal arg then .command (.setnow arg) else .illegal .reservedTime
  else if op = opPop then decodeBare .pop arg
  else if op = opRdreg then
    if argHigh arg = 0#56 then
      if indexLegal (argByte arg) then .command (.rdreg (argByte arg)) else .illegal .reservedIndex
    else .illegal .mustBeZero
  else if op = opClrstat then decodeBare .clrstat arg
  else if op = opSreset then decodeBare .sreset arg
  else .illegal .reservedOpcode

/-- The opcode of a command (R82). -/
def opcode : Instr → Byte
  | .nop => opNop
  | .feed _ => opFeed
  | .setnow _ => opSetnow
  | .pop => opPop
  | .rdreg _ => opRdreg
  | .clrstat => opClrstat
  | .sreset => opSreset

/-- The argument of a command, its must-be-zero bits 0 (R82, R83). -/
def operand : Instr → Word
  | .nop => 0#64
  | .feed b => b.setWidth 64
  | .setnow t => t
  | .pop => 0#64
  | .rdreg idx => idx.setWidth 64
  | .clrstat => 0#64
  | .sreset => 0#64

/-- The encoder: the command word of a command (R80, R82). -/
def encode (i : Instr) : CmdWord := opcode i ++ operand i

/-- The command word whose low `nbits` bits are those of `w` and whose other bits are 0 (log 15). -/
def wordOfBits (nbits w : Nat) : CmdWord := BitVec.ofNat 72 (w % 2 ^ nbits)

/-- The instruction the decoder reads from a table row's word, bit 0 the least significant bit (log 15). -/
def decodeTableWord (nbits w : Nat) : Option Instr :=
  if nbits ≤ 72 then
    match decode (wordOfBits nbits w) with
    | .command i => some i
    | .illegal _ => none
  else none

end Sys2Proof
end

