-- ==== Sys2Proof/Config.lean ====
section
/-! DEFINITION. The six parameters of R7, fixed for the life of a model instance (R36), and their defaults (R7, R92).

No value of the block is left undefined by the spec, so this file holds no opaque free value: the one open order (R71) is
data of the Host agent (log 6). -/

namespace Sys2Proof

/-- The configuration (R7). Which configurations the model accepts is `Config.wf` (R10). -/
structure Config where
  /-- `CAP`: capture buffer capacity in bytes, counting `/` and `!`. -/
  cap : Nat
  /-- `FIELD_CAP`: the longest numeric capture accepted, in bytes. -/
  fieldCap : Nat
  /-- `C`: Sample Ring Buffer capacity in Samples. -/
  c : Nat
  /-- `W`: window length in seconds. -/
  w : Nat
  /-- `TAG_TABLE`: each recognised tag with its field id (log 3: a list, the first entry of a tag counts). -/
  tagTable : List (List Byte × BitVec 4)
  /-- `FATAL_ON_FIELD_ERR`: a field-length error halts the block. -/
  fatal : Bool
  deriving DecidableEq, Repr

/-- The default `TAG_TABLE` (R92): OBIS tags of the DSMR P1 protocol, which the spec itself marks as general knowledge. -/
def defaultTagTable : List (List Byte × BitVec 4) :=
  [ (asciiBytes ['1', '-', '0', ':', '1', '.', '8', '.', '1'], 1#4),
    (asciiBytes ['1', '-', '0', ':', '1', '.', '8', '.', '2'], 2#4),
    (asciiBytes ['1', '-', '0', ':', '2', '.', '8', '.', '1'], 3#4),
    (asciiBytes ['1', '-', '0', ':', '2', '.', '8', '.', '2'], 4#4),
    (asciiBytes ['0', '-', '1', ':', '2', '4', '.', '2', '.', '1'], 5#4),
    (asciiBytes ['1', '-', '0', ':', '1', '.', '7', '.', '0'], 6#4),
    (asciiBytes ['1', '-', '0', ':', '2', '.', '7', '.', '0'], 7#4),
    (asciiBytes ['1', '-', '0', ':', '3', '2', '.', '7', '.', '0'], 8#4),
    (asciiBytes ['1', '-', '0', ':', '5', '2', '.', '7', '.', '0'], 9#4),
    (asciiBytes ['1', '-', '0', ':', '7', '2', '.', '7', '.', '0'], 10#4) ] ++
  [ (asciiBytes ['1', '-', '0', ':', '3', '1', '.', '7', '.', '0'], 11#4),
    (asciiBytes ['1', '-', '0', ':', '5', '1', '.', '7', '.', '0'], 12#4),
    (asciiBytes ['1', '-', '0', ':', '7', '1', '.', '7', '.', '0'], 13#4),
    (asciiBytes ['1', '-', '0', ':', '2', '1', '.', '7', '.', '0'], 14#4),
    (asciiBytes ['1', '-', '0', ':', '4', '1', '.', '7', '.', '0'], 14#4),
    (asciiBytes ['1', '-', '0', ':', '6', '1', '.', '7', '.', '0'], 14#4),
    (asciiBytes ['1', '-', '0', ':', '2', '2', '.', '7', '.', '0'], 14#4),
    (asciiBytes ['1', '-', '0', ':', '4', '2', '.', '7', '.', '0'], 14#4),
    (asciiBytes ['1', '-', '0', ':', '6', '2', '.', '7', '.', '0'], 14#4) ]

/-- The default configuration (R7). -/
def Config.default : Config :=
  { cap := 2048, fieldCap := 16, c := 10, w := 300, tagTable := defaultTagTable, fatal := true }

end Sys2Proof
end

