-- ==== Sys2Proof/Machine/Block.lean ====
section
/-! DEFINITION. The data of the block: its state elements (R20 to R35), the events it counts (R300), the responses it gives
(R81, R86). -/

namespace Sys2Proof.Machine

/-- The Frame Decoder's four states (R22). -/
inductive Fsm where
  | idle
  | capturing
  | readingChecksum
  | ready
  deriving DecidableEq, Repr

/-- The counted events (R300), in the order of their counters (R34). -/
inductive Event where
  | frameOk
  | crcFail
  | capDrop
  | fieldErr
  | samplePushed
  | evict
  | emptyWin
  | illegal
  deriving DecidableEq, Repr

/-- One aggregated quantity `acc.m[k]` (R28). -/
structure Metric where
  min : Word
  sum : BitVec 128
  max : Word
  deriving DecidableEq, Repr

/-- The accumulator `acc` (R28): the count, the 5 replace fields, the 8 metrics. -/
structure Acc where
  n : BitVec 32
  e : Vector Word 5
  m : Vector Metric 8
  deriving DecidableEq, Repr

/-- One metric of a Sample: `min[k]`, `avg[k]`, `max[k]` (R29). -/
structure Summary where
  min : Word
  avg : Word
  max : Word
  deriving DecidableEq, Repr

/-- A Sample (R29). A slot holds one; `ws = EMPTY_TS` marks an empty slot (R31). -/
structure Sample where
  ws : Word
  n : BitVec 32
  e : Vector Word 5
  m : Vector Summary 8
  deriving DecidableEq, Repr

/-- The checksum values of the most recent `EVAL` (R35). -/
structure LastCrc where
  computed : BitVec 16
  received : BitVec 16
  valid : Bool
  deriving DecidableEq, Repr

/-- The block's state: exactly the elements of R20. -/
structure Block where
  /-- The Frame Decoder's state (R22). -/
  fsm : Fsm
  /-- `cap[0:cap_len)`: the valid bytes of the capture buffer (R23, R61); `cap_len` is its length. -/
  cap : List Byte
  /-- `ck[0:ck_len)`: the checksum text (R24); `ck_len` is its length. -/
  ck : List Byte
  /-- The time of R25, in seconds. -/
  now : Word
  /-- The sticky fatal state (R26). -/
  halted : Bool
  /-- A window is active (R27). -/
  winActive : Bool
  /-- The bucket of the active window (R27). -/
  winBucket : Word
  /-- The accumulator (R28). -/
  acc : Acc
  /-- The ring's slots `slot[0..C-1]` (R30). -/
  slots : List Sample
  /-- The read cursor (R30). -/
  rd : BitVec 8
  /-- The write cursor (R30). -/
  wr : BitVec 8
  /-- The event counters (R34). -/
  cnt : Vector (BitVec 32) 8
  /-- The last checksum comparison (R35). -/
  lastCrc : LastCrc
  deriving DecidableEq, Repr

/-- The response codes the block produces (R86). -/
inductive ResponseCode where
  | ok
  | sample
  | empty
  | illegal
  | halted
  deriving DecidableEq, Repr

/-- The data part of a response, in one of the three forms of R81. -/
inductive ResponseData where
  /-- Empty. -/
  | none
  /-- One 64-bit word, for `RDREG`. -/
  | word (w : Word)
  /-- One Sample record (R87). -/
  | record (ws : List Word)
  deriving DecidableEq, Repr

/-- A response (R81). -/
structure Response where
  code : ResponseCode
  data : ResponseData
  deriving DecidableEq, Repr

/-- One command of the Host: the word it presents (R80), and whether the command is taken ahead of an `EVAL` that is
pending when it is presented. The second matters only for `RDREG` and `SRESET`, which are not held (R71); nothing
constrains it (log 6). -/
structure Presentation where
  word : CmdWord
  ahead : Bool
  deriving DecidableEq, Repr

/-- The Host agent (R15, R37): the commands it presents, in its order, the head at the command port, and the responses it
has received, newest first (log 6, log 7). -/
structure HostAgent where
  pending : List Presentation
  responses : List Response
  deriving DecidableEq, Repr

end Sys2Proof.Machine
end

