-- ==== Sys2Proof/Machine/Reset.lean ====
section
/-! DEFINITION. The values every state element holds after reset (R49) and the empty Sample (R31). -/

namespace Sys2Proof.Machine

/-- `EMPTY_TS` (R31). -/
def emptyTs : Word := 0xFFFFFFFFFFFFFFFF#64

/-- The empty Sample: `ws = EMPTY_TS`, every other field 0 (R31). -/
def emptySample : Sample :=
  { ws := emptyTs, n := 0#32, e := Vector.replicate 5 0#64, m := Vector.replicate 8 ⟨0#64, 0#64, 0#64⟩ }

/-- The accumulator with all fields 0 (R49, R204). -/
def freshAcc : Acc :=
  { n := 0#32, e := Vector.replicate 5 0#64, m := Vector.replicate 8 ⟨0#64, 0#128, 0#64⟩ }

/-- The block right after reset (R49, R331). Of the configuration, only `C` shows: the number of slots. -/
def Block.reset (cfg : Config) : Block :=
  { fsm := .idle
    cap := []
    ck := []
    now := 0#64
    halted := false
    winActive := false
    winBucket := 0#64
    acc := freshAcc
    slots := List.replicate cfg.c emptySample
    rd := 0#8
    wr := 0#8
    cnt := Vector.replicate 8 0#32
    lastCrc := ⟨0#16, 0#16, false⟩ }

end Sys2Proof.Machine
end

