-- ==== Sys2Proof/Machine/State.lean ====
section
/-! DEFINITION. The model's state: the block (R20), its configuration (R36), the Host agent (R15, R37); and the reasons a
step can stop. -/

namespace Sys2Proof.Machine

/-- The state of the model. Plain data. -/
structure State where
  /-- The configuration of this model instance; no step changes it (R36, log 1). -/
  cfg : Config
  /-- The block (R20). -/
  block : Block
  /-- The Host agent (R15, R37). -/
  host : HostAgent
  deriving DecidableEq, Repr

/-- The faults of the block: none. It has no traps, and every event is counted and the machine goes on (R308, log 13). So
no one raises a fault. -/
inductive Fault where
  deriving DecidableEq, Repr

/-- The reasons the model gives a step no meaning. -/
inductive Refusal where
  /-- An instruction that has no meaning yet, raised by `exec`'s arm; safe. No arm raises it. -/
  | notModelled (mnemonic : String)
  /-- The configuration breaks a constraint of R10, which says that the model refuses it; raised by `step`; safe. -/
  | badConfiguration
  deriving DecidableEq, Repr

/-- Power-on of a model instance with configuration `cfg` (R330, R334): the block at its reset values (R49), no command
presented and no response given yet (log 6, log 7). -/
def State.resetWith (cfg : Config) : State :=
  { cfg := cfg, block := Block.reset cfg, host := { pending := [], responses := [] } }

/-- The machine right after reset, with the default configuration of R7 (log 1). -/
def State.reset : State := State.resetWith Config.default

end Sys2Proof.Machine
end

