-- ==== Sys2Proof/Machine/Params.lean ====
section
/-! DEFINITION. What the configuration means: the constraints of R10, the tag lookup of R172, the `PARAMS` register of R44. -/

namespace Sys2Proof

/-- An entry of `TAG_TABLE` as R10 allows it: a non-empty tag without `(` and LF, an id in 1..14. -/
def tagEntryLegal (entry : List Byte × BitVec 4) : Bool :=
  !entry.1.isEmpty && !entry.1.contains chLParen && !entry.1.contains chLF &&
    entry.2 != 0#4 && entry.2 != 15#4

/-- The configurations the model accepts (R10). -/
def Config.wf (cfg : Config) : Bool :=
  decide (2 ≤ cfg.cap ∧ cfg.cap ≤ 65535) && decide (1 ≤ cfg.fieldCap ∧ cfg.fieldCap ≤ 16) &&
    decide (1 ≤ cfg.c ∧ cfg.c ≤ 255) && decide (1 ≤ cfg.w ∧ cfg.w ≤ 2 ^ 32 - 1) &&
    cfg.tagTable.all tagEntryLegal

/-- `lookup(tag)`: the field id of a tag, byte for byte equal to a key; 0 if it is not in the table (R172). -/
def Config.lookup (cfg : Config) (tag : List Byte) : BitVec 4 :=
  (cfg.tagTable.lookup tag).getD 0#4

end Sys2Proof
end

