-- ==== Sys2Proof/Machine/Ops.lean ====
section
/-! DEFINITION. The named operations over the block's state: counting an event (R300), entering the fatal halt and leaving
it by reset (R178, R312, R331), the capture buffer (R61), the ring's slots and cursors (R62), and responding (R81). -/

namespace Sys2Proof.Machine

/-- The counter of an event (R34, R300). -/
def Event.index : Event → Fin 8
  | .frameOk => 0
  | .crcFail => 1
  | .capDrop => 2
  | .fieldErr => 3
  | .samplePushed => 4
  | .evict => 5
  | .emptyWin => 6
  | .illegal => 7

/-- The value of a counter (R34). -/
def Block.count (b : Block) (e : Event) : BitVec 32 := b.cnt[e.index]

/-- `raise e`: the event's counter goes up by one modulo 2^32 (R300). -/
def Block.raise (b : Block) (e : Event) : Block :=
  { b with cnt := b.cnt.set e.index (b.cnt[e.index] + 1#32) }

/-- `FIELD_ERROR` (R178): the block's one exception. It counts the event and, with `FATAL_ON_FIELD_ERR = 1`, enters the
sticky halted state (R312). Entry saves nothing. -/
def Block.fieldError (cfg : Config) (b : Block) : Block :=
  let counted := b.raise .fieldErr
  if cfg.fatal then { counted with halted := true } else counted

/-- `RESET` (R331): the only way out of the halted state (R313). The configuration is kept (R36). -/
def Block.restart (cfg : Config) (_ : Block) : Block := Block.reset cfg

/-- Clear the capture buffer, then store `x` at index 0 (R133). -/
def Block.startCapture (b : Block) (x : Byte) : Block := { b with cap := [x] }

/-- Store `x` at index `cap_len` and advance `cap_len` (R61, R134). -/
def Block.appendCapture (b : Block) (x : Byte) : Block := { b with cap := b.cap ++ [x] }

/-- `cap_len <- 0` (R134). -/
def Block.dropCapture (b : Block) : Block := { b with cap := [] }

/-- The byte of the capture buffer at an index below `cap_len`; no other byte has meaning (R23). -/
def Block.capByte (b : Block) (i : Nat) : Option Byte := b.cap[i]?

/-- `slot[i]`. A cursor is below `C` in every state a run reaches; outside the array the model reads the empty Sample
(log 12). -/
def Block.slot (b : Block) (i : BitVec 8) : Sample := b.slots.getD i.toNat emptySample

/-- `slot[i] <- s`, the whole slot (R62). -/
def Block.setSlot (b : Block) (i : BitVec 8) (s : Sample) : Block :=
  { b with slots := b.slots.set i.toNat s }

/-- `(i + 1) mod C`, for a cursor `i` (R232, R238). -/
def nextCursor (cfg : Config) (i : BitVec 8) : BitVec 8 := BitVec.ofNat 8 ((i.toNat + 1) % cfg.c)

/-- The Host receives a response (R81). -/
def State.respond (s : State) (r : Response) : State :=
  { s with host := { s.host with responses := r :: s.host.responses } }

/-- A response without data (R81). -/
def bareResponse (code : ResponseCode) : Response := ⟨code, .none⟩

/-- An accepted illegal command: it counts `ILLEGAL`, answers ILLEGAL, and changes nothing else (R84, R266, R267, R263). -/
def State.rejectIllegal (s : State) : State :=
  { s with block := s.block.raise .illegal }.respond (bareResponse .illegal)

end Sys2Proof.Machine
end

