-- ==== Sys2Proof/Machine/Flags.lean ====
section
/-! DEFINITION. The flags and derived signals (R31, R32, R38, R39, R309), the host-visible registers (R40 to R46), the codes
of states and responses (R22, R86), and the Sample record (R87). -/

namespace Sys2Proof.Machine

/-- The 2-bit encoding of the decoder state (R22). -/
def Fsm.code : Fsm → BitVec 2
  | .idle => 0#2
  | .capturing => 1#2
  | .readingChecksum => 2#2
  | .ready => 3#2

/-- The 8-bit response codes (R86). -/
def ResponseCode.byte : ResponseCode → Byte
  | .ok => 0x00#8
  | .sample => 0x01#8
  | .empty => 0x02#8
  | .illegal => 0x03#8
  | .halted => 0x04#8

/-- `BUSY` (R38, R130). -/
def Block.busy (b : Block) : Bool := b.fsm == .ready

/-- A Sample in a slot is a real one (R31). -/
def Sample.real (s : Sample) : Bool := s.ws != emptyTs

/-- `occupied(i)` (R31). -/
def Block.occupied (b : Block) (i : BitVec 8) : Bool := (b.slot i).real

/-- `rb_count`, the fill count (R32), with the exact difference and the non-negative remainder of R12. -/
def Block.rbCount (cfg : Config) (b : Block) : Nat :=
  if b.occupied b.rd then (((b.wr.toNat : Int) - b.rd.toNat - 1) % cfg.c).toNat + 1 else 0

/-- The output `SAMPLE_READY` (R38, R309). -/
def Block.sampleReady (cfg : Config) (b : Block) : Bool := decide (0 < b.rbCount cfg)

/-- The output `HALT_OUT` (R38, R309). -/
def Block.haltOut (b : Block) : Bool := b.halted

/-- The output `BUSY_OUT` (R309). -/
def Block.busyOut (b : Block) : Bool := b.busy

/-- `cap_len` (R23). -/
def Block.capLen (b : Block) : BitVec 16 := BitVec.ofNat 16 b.cap.length

/-- `ck_len` (R24). -/
def Block.ckLen (b : Block) : BitVec 3 := BitVec.ofNat 3 b.ck.length

/-- A register field whose lowest bit is bit `low` of the register. -/
def regField {n : Nat} (low : Nat) (v : BitVec n) : Word := v.setWidth 64 <<< low

/-- `PARAMS`, index 0 (R44). -/
def regParams (cfg : Config) : Word :=
  regField 0 (BitVec.ofNat 16 cfg.cap) ||| regField 16 (BitVec.ofNat 8 cfg.fieldCap) |||
    regField 24 (BitVec.ofNat 8 cfg.c) ||| regField 32 (BitVec.ofNat 32 cfg.w)

/-- `STATUS`, index 1 (R41). The reserved bits [7:5] and [63:36] read 0. -/
def regStatus (cfg : Config) (b : Block) : Word :=
  regField 0 b.fsm.code ||| regField 2 (BitVec.ofBool b.busy) ||| regField 3 (BitVec.ofBool b.halted) |||
    regField 4 (BitVec.ofBool b.winActive) ||| regField 8 (BitVec.ofNat 8 (b.rbCount cfg)) |||
    regField 16 b.rd ||| regField 24 b.wr ||| regField 32 b.ckLen ||| regField 35 (BitVec.ofBool cfg.fatal)

/-- `LAST_CRC`, index 14 (R46). The reserved bits [63:33] read 0. -/
def regLastCrc (b : Block) : Word :=
  regField 0 b.lastCrc.computed ||| regField 16 b.lastCrc.received ||| regField 32 (BitVec.ofBool b.lastCrc.valid)

/-- `reg(idx)`, for a defined index (R40 to R46). A reserved index is no register (R47); `RDREG` rejects it before it
reads, so the 0 here reaches no one. -/
def readReg (cfg : Config) (b : Block) (idx : Byte) : Word :=
  match idx.toNat with
  | 0 => regParams cfg
  | 1 => regStatus cfg b
  | 2 => b.capLen.setWidth 64
  | 3 => b.now
  | 4 => b.winBucket
  | 5 => b.acc.n.setWidth 64
  | 6 => (b.count .frameOk).setWidth 64
  | 7 => (b.count .crcFail).setWidth 64
  | 8 => (b.count .capDrop).setWidth 64
  | 9 => (b.count .fieldErr).setWidth 64
  | 10 => (b.count .samplePushed).setWidth 64
  | 11 => (b.count .evict).setWidth 64
  | 12 => (b.count .emptyWin).setWidth 64
  | 13 => (b.count .illegal).setWidth 64
  | 14 => regLastCrc b
  | _ => 0#64

/-- The 31-word record of a Sample (R87). -/
def Sample.record (s : Sample) : List Word :=
  s.ws :: s.n.setWidth 64 :: (s.e.toList ++ s.m.toList.flatMap fun x => [x.min, x.avg, x.max])

end Sys2Proof.Machine
end

