-- ==== Sys2Proof/Machine/Operands.lean ====
section
/-! DEFINITION. How a command is taken: the hold while BUSY, which looks only at the opcode, then the legality of its
operand (R268, R311, R340). -/

namespace Sys2Proof.Machine

/-- The opcodes held while BUSY: all but `RDREG` and `SRESET`, the reserved ones among them (R82, R268). -/
def heldOpcode (op : Byte) : Bool := op != opRdreg && op != opSreset

/-- The command with opcode `op` is not accepted in this state (R268, R340). -/
def Block.holds (b : Block) (op : Byte) : Bool := b.busy && heldOpcode op

/-- `ACCEPT` for a decoded command (R268): a held command changes nothing and has no response yet (R340); an illegal
operand is rejected (R84 items 4 and 5); else the command's own effect `effect` happens. -/
def accept (op : Byte) (legal : Bool) (effect : State → State) (s : State) : State :=
  if s.block.holds op then s
  else if legal then effect s
  else s.rejectIllegal

end Sys2Proof.Machine
end

