-- ==== Sys2Proof/Machine/Control.lean ====
section
/-! DEFINITION. The control commands: `NOP`, `SETNOW`, `RDREG`, `CLRSTAT`, `SRESET` (R260 to R265). -/

namespace Sys2Proof.Machine

/-- The effect of an accepted `NOP` (R260). -/
def answerOk (s : State) : State := s.respond (bareResponse .ok)

/-- `NOP` (R260). -/
def execNop (s : State) : Host.Outcome State Fault Refusal :=
  .next (accept opNop true answerOk s)

/-- The effect of an accepted `SETNOW t` (R261). -/
def setTime (t : Word) (s : State) : State :=
  { s with block := { s.block with now := t } }.respond (bareResponse .ok)

/-- `SETNOW t`; the time 2^64 - 1 is illegal (R261, R267). -/
def execSetnow (t : Word) (s : State) : Host.Outcome State Fault Refusal :=
  .next (accept opSetnow (timeLegal t) (setTime t) s)

/-- The effect of an accepted `RDREG idx` (R262): it reads, and has no side effect (R40). -/
def answerReg (idx : Byte) (s : State) : State :=
  s.respond ⟨.ok, .word (readReg s.cfg s.block idx)⟩

/-- `RDREG idx`; a reserved index is illegal (R262, R263). Not held while BUSY. -/
def execRdreg (idx : Byte) (s : State) : Host.Outcome State Fault Refusal :=
  .next (accept opRdreg (indexLegal idx) (answerReg idx) s)

/-- The effect of an accepted `CLRSTAT` (R264). -/
def clearCounters (s : State) : State :=
  { s with block := { s.block with cnt := Vector.replicate 8 0#32 } }.respond (bareResponse .ok)

/-- `CLRSTAT` (R264). -/
def execClrstat (s : State) : Host.Outcome State Fault Refusal :=
  .next (accept opClrstat true clearCounters s)

/-- The effect of an accepted `SRESET` (R265, R331). -/
def softReset (s : State) : State :=
  { s with block := s.block.restart s.cfg }.respond (bareResponse .ok)

/-- `SRESET` (R265). Not held while BUSY (R332). -/
def execSreset (s : State) : Host.Outcome State Fault Refusal :=
  .next (accept opSreset true softReset s)

end Sys2Proof.Machine
end

