-- ==== Sys2Proof/Machine/Checksum.lean ====
section
/-! DEFINITION. The Checksum Engine: CRC-16/ARC, least significant bit first (R110 to R116). -/

namespace Sys2Proof.Machine

/-- One shift of the register (R111, R113). -/
def crcShift (c : BitVec 16) : BitVec 16 :=
  if c.getLsbD 0 then (c >>> 1) ^^^ 0xA001#16 else c >>> 1

/-- `crc_step(c, b)`: the byte enters by XOR, then 8 shifts (R111). -/
def crcStep (c : BitVec 16) (b : Byte) : BitVec 16 :=
  Nat.repeat crcShift 8 (c ^^^ b.setWidth 16)

/-- `crc16(s)`: initial value 0, no final XOR (R112). -/
def crc16 (s : List Byte) : BitVec 16 := s.foldl crcStep 0x0000#16

end Sys2Proof.Machine
end

