-- ==== Sys2Proof/Machine/Ring.lean ====
section
/-! DEFINITION. The Sample Ring Buffer: `PUSH` (R232) and `POP` (R238 to R242). -/

namespace Sys2Proof.Machine

/-- The ring is full: `wr` would wrap onto an occupied `rd` (R232). -/
def Block.ringFull (b : Block) : Bool := b.wr == b.rd && b.occupied b.rd

/-- Remove the Sample at `rd`: the slot becomes the empty Sample and `rd` advances (R62, R232, R238, R240). -/
def Block.dropOldest (cfg : Config) (b : Block) : Block :=
  { b.setSlot b.rd emptySample with rd := nextCursor cfg b.rd }

/-- Make room for a push: a full ring drops its oldest Sample and counts `EVICT`, before the store (R232, R233). -/
def Block.evictIfFull (cfg : Config) (b : Block) : Block :=
  if b.ringFull then (b.dropOldest cfg).raise .evict else b

/-- Store at `wr`, advance `wr`, count `SAMPLE_PUSHED` (R232). -/
def Block.storeSample (cfg : Config) (s : Sample) (b : Block) : Block :=
  { b.setSlot b.wr s with wr := nextCursor cfg b.wr }.raise .samplePushed

/-- `PUSH(s)` (R232). -/
def Block.push (cfg : Config) (s : Sample) (b : Block) : Block :=
  (b.evictIfFull cfg).storeSample cfg s

/-- The effect of an accepted `POP` (R238): SAMPLE and the oldest Sample's record, or EMPTY and no change (R239). -/
def popSample (s : State) : State :=
  if s.block.occupied s.block.rd then
    { s with block := s.block.dropOldest s.cfg }.respond
      ⟨.sample, .record (s.block.slot s.block.rd).record⟩
  else s.respond (bareResponse .empty)

/-- `POP` (R238). Halting does not affect it (R241); it is held while BUSY (R242). -/
def execPop (s : State) : Host.Outcome State Fault Refusal :=
  .next (accept opPop true popSample s)

end Sys2Proof.Machine
end

