-- ==== Sys2Proof/Machine/Window.lean ====
section
/-! DEFINITION. The Window Accumulator: `WINDOW_SELECT`, `START`, `FINALIZE` (R200 to R207). -/

namespace Sys2Proof.Machine

/-- The bucket of a time: `t div W` (R200). -/
def bucketOf (cfg : Config) (t : Word) : Word := BitVec.ofNat 64 (t.toNat / cfg.w)

/-- The start of a bucket's window: `bucket * W` (R206). The product is at most the `now` that started the window, so in
no state a run reaches does it wrap; elsewhere the model wraps it modulo 2^64 (log 12). -/
def windowStart (cfg : Config) (bucket : Word) : Word := BitVec.ofNat 64 (bucket.toNat * cfg.w)

/-- `START(b)`: a fresh accumulator and an active window at `bucket` (R204). -/
def Block.startWindow (bucket : Word) (b : Block) : Block :=
  { b with acc := freshAcc, winBucket := bucket, winActive := true }

/-- `(sum div n) mod 2^64` (R206). -/
def average (sum : BitVec 128) (n : BitVec 32) : Word := BitVec.ofNat 64 (sum.toNat / n.toNat)

/-- A metric as its Sample carries it (R206). -/
def Metric.summary (n : BitVec 32) (x : Metric) : Summary := ⟨x.min, average x.sum n, x.max⟩

/-- The Sample of the active window (R206). -/
def Block.finalSample (cfg : Config) (b : Block) : Sample :=
  { ws := windowStart cfg b.winBucket
    n := b.acc.n
    e := b.acc.e
    m := b.acc.m.map (Metric.summary b.acc.n) }

/-- `FINALIZE` (R205, R206): an empty window is discarded and counted, any other is pushed as a Sample. -/
def Block.finalize (cfg : Config) (b : Block) : Block :=
  if b.acc.n = 0#32 then b.raise .emptyWin else b.push cfg (b.finalSample cfg)

/-- `WINDOW_SELECT(t)` (R200 to R203): the finalize, if any, comes before the start (R207). -/
def Block.selectWindow (cfg : Config) (t : Word) (b : Block) : Block :=
  let bucket := bucketOf cfg t
  if !b.winActive then b.startWindow bucket
  else if bucket ≠ b.winBucket then (b.finalize cfg).startWindow bucket
  else b

end Sys2Proof.Machine
end

