-- ==== Sys2Proof/Machine/Parser.lean ====
section
/-! DEFINITION. The Telegram Parser: lines, the two grammars, numbers, dispatch and update (R160 to R178). -/

namespace Sys2Proof.Machine

/-- `split_LF(s)`: cut at every LF and drop it; `k` LF bytes give `k + 1` pieces (R13, R161). -/
def splitLF : List Byte → List (List Byte)
  | [] => [[]]
  | x :: xs =>
    if x = chLF then [] :: splitLF xs
    else
      match splitLF xs with
      | [] => [[x]]
      | line :: lines => (x :: line) :: lines

/-- `skip(L)`: an empty line, or one that begins with `/` or a control byte (R162). -/
def skipLine : List Byte → Bool
  | [] => true
  | x :: _ => x == chSlash || decide (x.toNat < 0x20)

/-- The line begins with `!` (R163). -/
def stopLine : List Byte → Bool
  | [] => false
  | x :: _ => x == chBang

/-- `'0'..'9'` (R16). -/
def isDigit (x : Byte) : Bool := decide (0x30 ≤ x.toNat ∧ x.toNat ≤ 0x39)

/-- A byte of a numeric run (R166). -/
def isNumeric (x : Byte) : Bool := isDigit x || x == chDot

/-- The two line grammars (R166, R167). -/
inductive Grammar where
  | a
  | b
  deriving DecidableEq, Repr

/-- A matched line: its grammar, its tag, its numeric capture (R166, R167). -/
structure FieldMatch where
  grammar : Grammar
  tag : List Byte
  num : List Byte
  deriving DecidableEq, Repr

/-- The non-empty numeric run at the front of `rest`, if `*` follows it (R166, R167). What comes after the `*` is
ignored. -/
def numericCapture (rest : List Byte) : Option (List Byte) :=
  let run := rest.takeWhile isNumeric
  if run.isEmpty then none
  else
    match rest.dropWhile isNumeric with
    | [] => none
    | x :: _ => if x = chStar then some run else none

/-- What follows the first `)(` of `rest`, if its first `)` is followed by `(` (R167). -/
def afterIgnored (rest : List Byte) : Option (List Byte) :=
  match rest.dropWhile (· != chRParen) with
  | _ :: y :: more => if y = chLParen then some more else none
  | _ => none

/-- `MATCH(L)` (R165 to R168): the tag is what precedes the first `(`; Grammar A is tried first, Grammar B only if it
fails. -/
def matchLine (line : List Byte) : Option FieldMatch :=
  let tag := line.takeWhile (· != chLParen)
  if tag.isEmpty then none
  else
    match line.dropWhile (· != chLParen) with
    | [] => none
    | _ :: rest =>
      match numericCapture rest with
      | some num => some ⟨.a, tag, num⟩
      | none =>
        match (afterIgnored rest).bind numericCapture with
        | some num => some ⟨.b, tag, num⟩
        | none => none

/-- The value of a run of decimal digits; 0 for none (R170). -/
def decimal (ds : List Byte) : Nat := ds.foldl (fun v d => v * 10 + (d.toNat - 0x30)) 0

/-- The whole digits of a capture: its leading run of digits (R170). -/
def wholeDigits (num : List Byte) : List Byte := num.takeWhile isDigit

/-- The fraction digits of a capture: the run of digits after a `.` that follows the whole digits (R170). -/
def fractionDigits (num : List Byte) : List Byte :=
  match num.dropWhile isDigit with
  | [] => []
  | x :: rest => if x = chDot then rest.takeWhile isDigit else []

/-- `numval(N)` as an exact number of 0.001 units (R170): the whole part, and the first three fraction digits, later ones
truncated. Text with no digit in its `digits [. digits]` prefix gives 0. -/
def numvalExact (num : List Byte) : Nat :=
  if (wholeDigits num).isEmpty && (fractionDigits num).isEmpty then 0
  else decimal (wholeDigits num) * 1000 + decimal ((fractionDigits num ++ [0x30#8, 0x30#8, 0x30#8]).take 3)

/-- `numval(N)` (R170). It fits 64 bits for a capture of at most 16 bytes (R171). -/
def numval (num : List Byte) : Word := BitVec.ofNat 64 (numvalExact num)

/-- What a field id selects (R91). -/
inductive Target where
  /-- Ids 1 to 5: `acc.e[i]`. -/
  | replace (i : Fin 5)
  /-- Ids 6 to 13: `acc.m[k]`. -/
  | aggregate (k : Fin 8)
  /-- Id 14: recognised, no effect (R175). -/
  | reserved
  /-- Id 0: not in the table (R176). Id 15, which no accepted table holds, has no target either (log 12). -/
  | ignore
  deriving DecidableEq, Repr

/-- The target of a field id (R91). -/
def fieldTarget (id : BitVec 4) : Target :=
  match id.toNat with
  | 1 => .replace 0
  | 2 => .replace 1
  | 3 => .replace 2
  | 4 => .replace 3
  | 5 => .replace 4
  | 6 => .aggregate 0
  | 7 => .aggregate 1
  | 8 => .aggregate 2
  | 9 => .aggregate 3
  | 10 => .aggregate 4
  | 11 => .aggregate 5
  | 12 => .aggregate 6
  | 13 => .aggregate 7
  | 14 => .reserved
  | _ => .ignore

/-- The aggregate rule for one metric, `first` when `acc.n = 0` (R174). -/
def Metric.add (first : Bool) (v : Word) (x : Metric) : Metric :=
  { min := if first then v else if v.toNat < x.min.toNat then v else x.min
    sum := x.sum + v.setWidth 128
    max := if x.max.toNat < v.toNat then v else x.max }

/-- `UPDATE(id, v)` on the accumulator (R173 to R176). -/
def Acc.update (target : Target) (v : Word) (a : Acc) : Acc :=
  match target with
  | .replace i => { a with e := a.e.set i v }
  | .aggregate k => { a with m := a.m.set k (a.m[k].add (a.n == 0#32) v) }
  | .reserved => a
  | .ignore => a

/-- Dispatch of a matched line (R172): a Grammar B match counts only for the gas id. -/
def Block.applyField (cfg : Config) (r : FieldMatch) (b : Block) : Block :=
  let id := cfg.lookup r.tag
  if r.grammar = .b ∧ id ≠ 5#4 then b
  else { b with acc := b.acc.update (fieldTarget id) (numval r.num) }

/-- `acc.n <- acc.n +_32 1` (R177). -/
def Block.countTelegram (b : Block) : Block := { b with acc := { b.acc with n := b.acc.n + 1#32 } }

/-- The loop of `PARSE` over the lines (R160): it ends at the end of the lines, at a stop line (R163), or at a capture
longer than `FIELD_CAP` (R169), which abandons the telegram without a rollback (R164, R178). -/
def Block.parseLines (cfg : Config) : List (List Byte) → Block → Block
  | [], b => b.countTelegram
  | line :: lines, b =>
    if skipLine line then Block.parseLines cfg lines b
    else if stopLine line then b.countTelegram
    else
      match matchLine line with
      | none => Block.parseLines cfg lines b
      | some r =>
        if cfg.fieldCap < r.num.length then b.fieldError cfg
        else Block.parseLines cfg lines (b.applyField cfg r)

/-- `PARSE(tel, t)` (R160). -/
def Block.parse (cfg : Config) (tel : List Byte) (t : Word) (b : Block) : Block :=
  Block.parseLines cfg (splitLF tel) (b.selectWindow cfg t)

end Sys2Proof.Machine
end

