-- ==== Sys2Proof/Machine/FrameDecoder.lean ====
section
/-! DEFINITION. The Frame Decoder: `FEED` (R131 to R138) and the Sequencer's step `EVAL` (R140 to R144). -/

namespace Sys2Proof.Machine

/-- `step_idle(b)`: only `/` starts a capture (R133). -/
def Block.stepIdle (x : Byte) (b : Block) : Block :=
  if x = chSlash then { b.startCapture x with fsm := .capturing } else b

/-- `step_capture(b)`: the capacity check first, then the append, then the end marker (R134 to R136). -/
def Block.stepCapture (cfg : Config) (x : Byte) (b : Block) : Block :=
  if b.cap.length = cfg.cap then
    { b.dropCapture with fsm := .idle }.raise .capDrop
  else if x = chBang then
    { b.appendCapture x with ck := [], fsm := .readingChecksum }
  else b.appendCapture x

/-- `step_cksum(b)`: a line terminator ends the text and is not stored; the fourth character ends it too (R137, R138). -/
def Block.stepChecksum (x : Byte) (b : Block) : Block :=
  if x = chCR ∨ x = chLF then { b with fsm := .ready }
  else
    let stored := { b with ck := b.ck ++ [x] }
    if stored.ck.length = 4 then { stored with fsm := .ready } else stored

/-- One byte into the decoder (R131). In Ready no byte is taken: `FEED` is held (R130). -/
def Block.feedByte (cfg : Config) (x : Byte) (b : Block) : Block :=
  match b.fsm with
  | .idle => b.stepIdle x
  | .capturing => b.stepCapture cfg x
  | .readingChecksum => b.stepChecksum x
  | .ready => b

/-- The effect of an accepted `FEED`: while halted the byte is lost (R132), else the decoder takes it (R131). -/
def takeByte (x : Byte) (s : State) : State :=
  if s.block.halted then s.respond (bareResponse .halted)
  else { s with block := s.block.feedByte s.cfg x }.respond (bareResponse .ok)

/-- `FEED b` (R131). -/
def execFeed (b : Byte) (s : State) : Host.Outcome State Fault Refusal :=
  .next (accept opFeed true (takeByte b) s)

/-- The value of a hex digit, either letter case (R141). -/
def hexDigit (x : Byte) : Option Nat :=
  if 0x30 ≤ x.toNat ∧ x.toNat ≤ 0x39 then some (x.toNat - 0x30)
  else if 0x41 ≤ x.toNat ∧ x.toNat ≤ 0x46 then some (x.toNat - 0x41 + 10)
  else if 0x61 ≤ x.toNat ∧ x.toNat ≤ 0x66 then some (x.toNat - 0x61 + 10)
  else none

/-- The loop of `hexval` from the value `v` collected so far (R141). -/
def hexvalFrom (v : Nat) : List Byte → Nat
  | [] => v
  | x :: xs =>
    match hexDigit x with
    | some d => hexvalFrom (v * 16 + d) xs
    | none => v

/-- `hexval(t)`: the base-16 value of the longest prefix of hex digits, most significant first (R141, R64 item 3). -/
def hexval (t : List Byte) : BitVec 16 := BitVec.ofNat 16 (hexvalFrom 0 t)

/-- The two checksum values of `EVAL`, recorded (R35, R140). -/
def Block.recordCrc (b : Block) : Block :=
  { b with lastCrc := ⟨crc16 b.cap, hexval b.ck, true⟩ }

/-- `EVAL` (R140): compare, then count `CRC_FAIL` and drop the frame (R142), or count `FRAME_OK` and parse it (R143); the
decoder returns to Idle whatever the outcome (R144). -/
def Block.eval (cfg : Config) (b : Block) : Block :=
  let compared := b.recordCrc
  let evaluated :=
    if crc16 b.cap ≠ hexval b.ck then compared.raise .crcFail
    else (compared.raise .frameOk).parse cfg b.cap b.now
  { evaluated with fsm := .idle }

end Sys2Proof.Machine
end

