-- ==== Sys2Proof/Machine/Dispatch.lean ====
section
/-! DEFINITION. One arm per command, each a direct call of its meaning. -/

namespace Sys2Proof.Machine

def exec (i : Instr) (s : State) : Host.Outcome State Fault Refusal :=
  match i with
  | .nop => Sys2Proof.Machine.execNop s
  | .feed b => Sys2Proof.Machine.execFeed b s
  | .setnow t => Sys2Proof.Machine.execSetnow t s
  | .pop => Sys2Proof.Machine.execPop s
  | .rdreg idx => Sys2Proof.Machine.execRdreg idx s
  | .clrstat => Sys2Proof.Machine.execClrstat s
  | .sreset => Sys2Proof.Machine.execSreset s

end Sys2Proof.Machine
end

