-- ==== Sys2Proof/Machine/Sequencer.lean ====
section
/-! DEFINITION. Which agent steps next and what it does: the command port, from which the block takes the Host's commands
(R37, R80, R340), and the Sequencer's `EVAL` (R15, R71, R140). -/

namespace Sys2Proof.Machine

/-- What the next step is (R15). -/
inductive Action where
  /-- The configuration breaks R10. -/
  | badConfiguration
  /-- Nothing is enabled: no command is presented and `fsm` is not Ready (R318, R348). -/
  | rest
  /-- The Sequencer's `EVAL`; the presented command, if any, stays pending. -/
  | evaluate
  /-- The presented word is accepted and is the legal command `i`. -/
  | command (i : Instr)
  /-- The presented word is accepted and is illegal. -/
  | illegal
  deriving DecidableEq, Repr

/-- A presented command is taken now rather than after `EVAL`: always when the block is not BUSY; while BUSY only an
opcode that is not held, and then in either order, as the presentation says (R71, R268, R340). -/
def Block.takes (b : Block) (p : Presentation) : Bool :=
  !b.busy || (!heldOpcode (opOf p.word) && p.ahead)

/-- The action of the command port on a presented word (R268). -/
def portAction (p : Presentation) : Action :=
  match decode p.word with
  | .command i => .command i
  | .illegal _ => .illegal

/-- The next step (R15, R71, R340). -/
def nextAction (s : State) : Action :=
  if !s.cfg.wf then .badConfiguration
  else
    match s.host.pending with
    | [] => if s.block.busy then .evaluate else .rest
    | p :: _ => if s.block.takes p then portAction p else .evaluate

/-- The presented command leaves the port (R37). -/
def State.takeCommand (s : State) : State :=
  { s with host := { s.host with pending := s.host.pending.tail } }

/-- The Sequencer's step (R140). -/
def State.evaluate (s : State) : State := { s with block := s.block.eval s.cfg }

/-- The Host presents one more command, before those already listed. -/
def State.present (s : State) (p : Presentation) : State :=
  { s with host := { s.host with pending := p :: s.host.pending } }

end Sys2Proof.Machine
end

