-- ==== Sys2Proof/Machine/Step.lean ====
section
/-! DEFINITION. One step of the model: the action `nextAction` chooses (R15). -/

namespace Sys2Proof.Machine

/-- One atomic step (R15, R67). An accepted command leaves the port and is executed (R268); an accepted illegal word is
rejected (R266, R267); `EVAL` leaves the port as it is (R340). Where nothing is enabled the state stays as it is
(R318, log 8). A configuration that breaks R10 is refused (log 2). -/
def step (s : State) : Host.Outcome State Fault Refusal :=
  match nextAction s with
  | .badConfiguration => .refused .badConfiguration
  | .rest => .next s
  | .evaluate => .next s.evaluate
  | .command i => exec i s.takeCommand
  | .illegal => .next s.takeCommand.rejectIllegal

/-- The Host presents the word of `nbits` bits `w` next, ahead of a pending `EVAL` if its opcode may be (log 9, log 15). -/
def State.withFetchWord (s : State) (nbits w : Nat) : State :=
  s.present ⟨wordOfBits nbits w, true⟩

end Sys2Proof.Machine
end

