-- ==== Sys2Proof/Machine/Assembler.lean ====
section
/-! DEFINITION. The assembler syntax (R94) and the pseudo-instructions `FEEDS`, `TELEGRAM`, `WAITIDLE` (R95). What the two
rules leave open (blanks, empty lines, digit separators, `;` and a single quote inside quotes) is log 14. -/

namespace Sys2Proof.Machine

/-- One upper-case hex digit (R95). -/
def hexChar (d : BitVec 4) : Byte :=
  if d.toNat < 10 then BitVec.ofNat 8 (0x30 + d.toNat) else BitVec.ofNat 8 (0x41 + (d.toNat - 10))

/-- `hex4(v)`: the 4 upper-case hex digits, most significant first (R95). -/
def hex4 (v : BitVec 16) : List Byte :=
  [hexChar (v.extractLsb' 12 4), hexChar (v.extractLsb' 8 4), hexChar (v.extractLsb' 4 4),
    hexChar (v.extractLsb' 0 4)]

/-- `FEEDS`: one `FEED` per byte, in order (R95). -/
def feedsOf (text : List Byte) : List Instr := text.map .feed

/-- The bytes of `TELEGRAM "<body>"`: the body, its checksum text, CR LF (R95, R93). -/
def telegramBytes (body : List Byte) : List Byte := body ++ hex4 (crc16 body) ++ [chCR, chLF]

/-- The body of a `TELEGRAM` starts with `/` and ends with `!` (R95). -/
def telegramBodyLegal (body : List Byte) : Bool :=
  body.head? == some chSlash && body.getLast? == some chBang

/-- `TELEGRAM "<body>"` (R95). -/
def telegramOf (body : List Byte) : Option (List Instr) :=
  if telegramBodyLegal body then some (feedsOf (telegramBytes body)) else none

/-- `WAITIDLE` is `NOP` (R95). -/
def waitIdle : List Instr := [.nop]

/-- The double quote, the single quote and the backslash. -/
def dquote : Char := Char.ofNat 34
def squote : Char := Char.ofNat 39
def bslash : Char := Char.ofNat 92

/-- Where a character of a line stands: outside quotes, right after an opening single quote, after the character that follows
it, inside a text in double quotes, or after a backslash there. -/
inductive Quoting where
  | outside
  | opened
  | character
  | text
  | escape
  deriving DecidableEq, Repr

/-- The line without its comment: a `;` outside quotes starts one (R94). The character right after an opening single quote is
the quoted one, whatever it is, a single quote or a `;` included: the model's choice (log 14). -/
def dropComment : Quoting → List Char → List Char
  | _, [] => []
  | .outside, c :: cs =>
    if c = ';' then []
    else if c = dquote then c :: dropComment .text cs
    else if c = squote then c :: dropComment .opened cs
    else c :: dropComment .outside cs
  | .opened, c :: cs => c :: dropComment .character cs
  | .character, c :: cs =>
    if c = squote then c :: dropComment .outside cs else c :: dropComment .character cs
  | .text, c :: cs =>
    if c = dquote then c :: dropComment .outside cs
    else if c = bslash then c :: dropComment .escape cs
    else c :: dropComment .text cs
  | .escape, c :: cs => c :: dropComment .text cs

/-- A blank between the words of a line. -/
def isBlank (c : Char) : Bool := c == ' ' || c == Char.ofNat 9

/-- The text without the blanks at its two ends. -/
def trimBlanks (cs : List Char) : List Char :=
  ((cs.dropWhile isBlank).reverse.dropWhile isBlank).reverse

/-- The value of a hex digit character, either letter case. -/
def charDigit (c : Char) : Option Nat := if c.toNat < 128 then hexDigit (asciiByte c) else none

/-- The number a run of digits of a base writes, from the value so far. A `_` that stands before something other than a `_` or
the end of the run separates digits and counts for nothing: the model's choice, by which `0xFFFF_FFFF_FFFF_FFFE` of V-WIN-4
is a number (log 14). -/
def digitsFrom (base : Nat) (v : Nat) : List Char → Option Nat
  | [] => some v
  | c :: cs =>
    if c = '_' then
      if cs.isEmpty || cs.head? == some '_' then none else digitsFrom base v cs
    else
      match charDigit c with
      | some d => if d < base then digitsFrom base (v * base + d) cs else none
      | none => none

/-- The number a non-empty text of digits of a base writes. It begins with a digit, not with a separator (log 14). -/
def parseDigits (base : Nat) (cs : List Char) : Option Nat :=
  if cs.isEmpty || cs.head? == some '_' then none else digitsFrom base 0 cs

/-- A number, decimal or with the prefix `0x` in hex (R94). -/
def parseNumber (cs : List Char) : Option Nat :=
  match cs with
  | c :: d :: rest => if c = '0' ∧ d = 'x' then parseDigits 16 rest else parseDigits 10 cs
  | _ => parseDigits 10 cs

/-- A character as one byte, if its code is one. -/
def charByte (c : Char) : Option Byte := if c.toNat < 256 then some (asciiByte c) else none

/-- The operand of `FEED`: a number below 256, or a character in single quotes (R94). Any character may stand between the two
quotes, a single quote included: the model's choice (log 14). -/
def parseByte (cs : List Char) : Option Byte :=
  match cs with
  | [a, c, b] =>
    if a = squote ∧ b = squote then charByte c
    else (parseNumber cs).bind fun v => if v < 256 then some (BitVec.ofNat 8 v) else none
  | _ => (parseNumber cs).bind fun v => if v < 256 then some (BitVec.ofNat 8 v) else none

/-- The operand of `SETNOW`: a number of 64 bits whose command word is legal (R94, R84 item 4). -/
def parseTime (cs : List Char) : Option Word :=
  (parseNumber cs).bind fun v =>
    if v < 2 ^ 64 ∧ timeLegal (BitVec.ofNat 64 v) then some (BitVec.ofNat 64 v) else none

/-- The register names of R40, in the order of their indices. -/
def registerNames : List (List Char) :=
  [ ['P', 'A', 'R', 'A', 'M', 'S'], ['S', 'T', 'A', 'T', 'U', 'S'], ['C', 'A', 'P', 'L', 'E', 'N'], ['N', 'O', 'W'],
    ['W', 'I', 'N', '_', 'B', 'U', 'C', 'K', 'E', 'T'], ['W', 'I', 'N', '_', 'N'],
    ['C', 'N', 'T', '_', 'F', 'R', 'A', 'M', 'E', '_', 'O', 'K'], ['C', 'N', 'T', '_', 'C', 'R', 'C', '_', 'F', 'A', 'I', 'L'],
    ['C', 'N', 'T', '_', 'C', 'A', 'P', '_', 'D', 'R', 'O', 'P'],
    ['C', 'N', 'T', '_', 'F', 'I', 'E', 'L', 'D', '_', 'E', 'R', 'R'], ['C', 'N', 'T', '_', 'S', 'A', 'M', 'P', 'L', 'E', 'S'],
    ['C', 'N', 'T', '_', 'E', 'V', 'I', 'C', 'T'], ['C', 'N', 'T', '_', 'E', 'M', 'P', 'T', 'Y', '_', 'W', 'I', 'N'],
    ['C', 'N', 'T', '_', 'I', 'L', 'L', 'E', 'G', 'A', 'L'], ['L', 'A', 'S', 'T', '_', 'C', 'R', 'C'] ]

/-- The operand of `RDREG`: an index of a register, or its name (R94). -/
def parseIndex (cs : List Char) : Option Byte :=
  match registerNames.findIdx? (· == cs) with
  | some i => some (BitVec.ofNat 8 i)
  | none => (parseNumber cs).bind fun v => if v < 15 then some (BitVec.ofNat 8 v) else none

/-- The bytes of a quoted text from after its opening quote: the closing quote must be the last character. The escapes are
`\r`, `\n`, `\\` and `\xHH` (R95). -/
def textBytes : List Char → Option (List Byte)
  | [] => none
  | c :: cs =>
    if c = dquote then (if cs.isEmpty then some [] else none)
    else if c = bslash then
      match cs with
      | [] => none
      | e :: es =>
        if e = 'r' then (textBytes es).map (chCR :: ·)
        else if e = 'n' then (textBytes es).map (chLF :: ·)
        else if e = bslash then (textBytes es).map (asciiByte bslash :: ·)
        else if e = 'x' then
          match es with
          | h :: l :: rest =>
            match charDigit h, charDigit l with
            | some hi, some lo => (textBytes rest).map (BitVec.ofNat 8 (hi * 16 + lo) :: ·)
            | _, _ => none
          | _ => none
        else none
    else
      match charByte c with
      | some x => (textBytes cs).map (x :: ·)
      | none => none

/-- A text in double quotes (R95). -/
def parseText (cs : List Char) : Option (List Byte) :=
  match cs with
  | [] => none
  | c :: rest => if c = dquote then textBytes rest else none

/-- A command without operand (R94). -/
def bareLine (is : List Instr) (arg : List Char) : Option (List Instr) :=
  if arg.isEmpty then some is else none

/-- The commands a mnemonic and its operand text stand for (R94, R95); none for an assembly error. -/
def assembleOp (mnemonic arg : List Char) : Option (List Instr) :=
  if mnemonic = ['N', 'O', 'P'] then bareLine [.nop] arg
  else if mnemonic = ['F', 'E', 'E', 'D'] then (parseByte arg).map fun b => [.feed b]
  else if mnemonic = ['S', 'E', 'T', 'N', 'O', 'W'] then (parseTime arg).map fun t => [.setnow t]
  else if mnemonic = ['P', 'O', 'P'] then bareLine [.pop] arg
  else if mnemonic = ['R', 'D', 'R', 'E', 'G'] then (parseIndex arg).map fun idx => [.rdreg idx]
  else if mnemonic = ['C', 'L', 'R', 'S', 'T', 'A', 'T'] then bareLine [.clrstat] arg
  else if mnemonic = ['S', 'R', 'E', 'S', 'E', 'T'] then bareLine [.sreset] arg
  else if mnemonic = ['F', 'E', 'E', 'D', 'S'] then (parseText arg).map feedsOf
  else if mnemonic = ['T', 'E', 'L', 'E', 'G', 'R', 'A', 'M'] then (parseText arg).bind telegramOf
  else if mnemonic = ['W', 'A', 'I', 'T', 'I', 'D', 'L', 'E'] then bareLine waitIdle arg
  else none

/-- One line of assembler text (R94, R95). A line without a command assembles to no word. -/
def assembleLine (line : List Char) : Option (List Instr) :=
  let text := trimBlanks (dropComment .outside line)
  if text.isEmpty then some []
  else assembleOp (text.takeWhile (!isBlank ·)) (trimBlanks (text.dropWhile (!isBlank ·)))

/-- A program, line by line, to its command words (R80, R94). -/
def assemble : List (List Char) → Option (List CmdWord)
  | [] => some []
  | line :: lines =>
    match assembleLine line, assemble lines with
    | some is, some ws => some (is.map encode ++ ws)
    | _, _ => none

end Sys2Proof.Machine
end

