-- ==== Sys2Proof/Safety.lean ====
section
/-! DEFINITION. What a good state and a safe run are, in the terms the statements use: the form of the block's arrays, the
ring invariant of R33, the invariant of every reachable state, and the views of the ring and of a telegram that the derived
laws of the spec speak of. -/

namespace Sys2Proof.Machine

/-- The form of the block's arrays (R60): the capture buffer within `CAP`, at most 4 checksum bytes, `C` slots. -/
def Block.memoryWf (cfg : Config) (b : Block) : Bool :=
  decide (b.cap.length ≤ cfg.cap) && decide (b.ck.length ≤ 4) && decide (b.slots.length = cfg.c)

/-- The position `i` slots after the read cursor. -/
def Block.ringIndex (cfg : Config) (b : Block) (i : Nat) : Nat := (b.rd.toNat + i) % cfg.c

/-- The slot `i` places after the read cursor. -/
def Block.ringSlot (cfg : Config) (b : Block) (i : Nat) : Sample := b.slots.getD (b.ringIndex cfg i) emptySample

/-- The Samples awaiting delivery, oldest first: the `rb_count` slots from `rd` on (R33). -/
def Block.ringList (cfg : Config) (b : Block) : List Sample :=
  (List.range (b.rbCount cfg)).map (b.ringSlot cfg)

/-- The ring invariant (R33): the occupied slots are exactly the `rb_count` slots from `rd` on, `wr` is the place after
them, and empty slots hold the empty Sample. -/
structure Block.RingInv (cfg : Config) (b : Block) : Prop where
  slots_length : b.slots.length = cfg.c
  rd_lt : b.rd.toNat < cfg.c
  wr_eq : b.wr.toNat = (b.rd.toNat + b.rbCount cfg) % cfg.c
  occupied_iff : ∀ i, i < cfg.c → ((b.ringSlot cfg i).real = true ↔ i < b.rbCount cfg)
  empty_slots : ∀ s, s ∈ b.slots → s.real = false → s = emptySample

/-- The Frame Decoder's invariant: the buffers within their bounds (R23, R24, R146); while capturing the buffer begins
with `/` and holds no `!` after it; from the end marker on, `!` stands once, at its end (R163); a halted block is Idle
(R313). -/
structure Block.DecoderInv (cfg : Config) (b : Block) : Prop where
  cap_le : b.cap.length ≤ cfg.cap
  ck_le : b.ck.length ≤ 4
  ck_lt : b.fsm = .readingChecksum → b.ck.length < 4
  capturing : b.fsm = .capturing → ∃ rest, b.cap = chSlash :: rest ∧ chBang ∉ rest
  captured : b.fsm = .readingChecksum ∨ b.fsm = .ready →
    ∃ mid, b.cap = chSlash :: (mid ++ [chBang]) ∧ chBang ∉ mid
  halted_idle : b.halted = true → b.fsm = .idle

/-- The Window Accumulator's invariant: `now` and every window start stay below `EMPTY_TS` (R25, R31), and only an active
window has counted a telegram (R201, R204). -/
structure Block.WindowInv (cfg : Config) (b : Block) : Prop where
  now_lt : b.now.toNat ≤ 2 ^ 64 - 2
  start_le : b.winBucket.toNat * cfg.w ≤ 2 ^ 64 - 2
  active : b.acc.n ≠ 0#32 → b.winActive = true

/-- The invariant of the block. -/
structure Block.Inv (cfg : Config) (b : Block) : Prop where
  decoder : b.DecoderInv cfg
  window : b.WindowInv cfg
  ring : b.RingInv cfg

/-- The invariant of the model: an accepted configuration (R10) and a block in good order. -/
structure State.Inv (s : State) : Prop where
  config : s.cfg.wf = true
  block : s.block.Inv s.cfg

/-- A step that goes on: it neither faults nor refuses. -/
def State.Safe (s : State) : Prop := ∃ t, step s = .next t

/-- The updates a list of lines makes, in order: one for each dispatched match; none if a numeric capture is longer than
`FIELD_CAP` (R160, R169, R172). -/
def lineUpdates (cfg : Config) : List (List Byte) → Option (List (Target × Word))
  | [] => some []
  | line :: lines =>
    if skipLine line then lineUpdates cfg lines
    else if stopLine line then some []
    else
      match matchLine line with
      | none => lineUpdates cfg lines
      | some r =>
        if cfg.fieldCap < r.num.length then none
        else if r.grammar = .b ∧ cfg.lookup r.tag ≠ 5#4 then lineUpdates cfg lines
        else (lineUpdates cfg lines).map ((fieldTarget (cfg.lookup r.tag), numval r.num) :: ·)

/-- The values a telegram gives metric `k`, in order. -/
def metricValues (k : Fin 8) (us : List (Target × Word)) : List Word :=
  us.filterMap fun u => if u.1 = .aggregate k then some u.2 else none

/-- The telegram reaches the end of `PARSE` without a field error and carries metric `k` exactly once, with value `v`
(the condition of R212). -/
def carriesOnce (cfg : Config) (k : Fin 8) (tel : List Byte) (v : Word) : Prop :=
  ∃ us, lineUpdates cfg (splitLF tel) = some us ∧ metricValues k us = [v]

/-- Presentations of one `FEED` per byte, in order, each on either side of a pending `EVAL`. -/
def presentsBytes (ps : List Presentation) (bytes : List Byte) : Prop :=
  ps.map (·.word) = bytes.map fun x => encode (.feed x)

end Sys2Proof.Machine
end

