-- ==== Sys2Proof/Certificates/Slice0/Obligations.lean ====
section
/-! DEFINITION. The statements for the provers. Each docstring names the rules of `spec/` the statement formalises. The Host
agent's lists `host.pending` and `host.responses`, and the bit `ahead`, are the model's own (log 6, log 7). -/

open Sys2Proof Sys2Proof.Machine

/-! ## The commands -/

/-- R260: an accepted `NOP` responds OK and does nothing else; while BUSY it is held. -/
def Obligations.NopRespondsOk : Prop :=
  ∀ s : State,
    (s.block.fsm ≠ .ready →
      exec .nop s = .next { s with host.responses := ⟨.ok, .none⟩ :: s.host.responses }) ∧
    (s.block.fsm = .ready → exec .nop s = .next s)

/-- R261: an accepted `SETNOW t` writes `now` and nothing else; 2^64 - 1 is illegal and leaves `now`; while BUSY it is
held. -/
def Obligations.SetnowWritesNow : Prop :=
  ∀ (s : State) (t : Word),
    (s.block.fsm ≠ .ready → t ≠ 0xFFFFFFFFFFFFFFFF#64 →
      exec (.setnow t) s =
        .next { s with block.now := t, host.responses := ⟨.ok, .none⟩ :: s.host.responses }) ∧
    (s.block.fsm ≠ .ready → t = 0xFFFFFFFFFFFFFFFF#64 →
      exec (.setnow t) s =
        .next { s with
          block.cnt := s.block.cnt.set 7 (s.block.cnt[7] + 1#32)
          host.responses := ⟨.illegal, .none⟩ :: s.host.responses }) ∧
    (s.block.fsm = .ready → exec (.setnow t) s = .next s)

/-- R262, R263, R47: in every state, BUSY or not, `RDREG` of a defined index answers the register's value and changes nothing;
of a reserved index it counts ILLEGAL and reads nothing. -/
def Obligations.RdregAnswersRegister : Prop :=
  ∀ (s : State) (idx : Byte),
    (idx.toNat < 15 →
      exec (.rdreg idx) s =
        .next { s with
          host.responses := ⟨.ok, .word (readReg s.cfg s.block idx)⟩ :: s.host.responses }) ∧
    (15 ≤ idx.toNat →
      exec (.rdreg idx) s =
        .next { s with
          block.cnt := s.block.cnt.set 7 (s.block.cnt[7] + 1#32)
          host.responses := ⟨.illegal, .none⟩ :: s.host.responses })

/-- R264: an accepted `CLRSTAT` zeroes the eight counters and nothing else; while BUSY it is held. -/
def Obligations.ClrstatZeroesCounters : Prop :=
  ∀ s : State,
    (s.block.fsm ≠ .ready →
      exec .clrstat s =
        .next { s with
          block.cnt := Vector.replicate 8 0#32
          host.responses := ⟨.ok, .none⟩ :: s.host.responses }) ∧
    (s.block.fsm = .ready → exec .clrstat s = .next s)

/-- R49, R331, R265: in every state, BUSY or halted or not, `SRESET` gives every state element its reset value and keeps the
configuration (and the Host's remaining commands). -/
def Obligations.SresetRestoresReset : Prop :=
  ∀ s : State,
    exec .sreset s =
      .next
        { cfg := s.cfg
          block :=
            { fsm := .idle, cap := [], ck := [], now := 0#64, halted := false, winActive := false, winBucket := 0#64
              acc := { n := 0#32, e := Vector.replicate 5 0#64, m := Vector.replicate 8 ⟨0#64, 0#128, 0#64⟩ }
              slots :=
                List.replicate s.cfg.c
                  { ws := 0xFFFFFFFFFFFFFFFF#64, n := 0#32, e := Vector.replicate 5 0#64
                    m := Vector.replicate 8 ⟨0#64, 0#64, 0#64⟩ }
              rd := 0#8, wr := 0#8, cnt := Vector.replicate 8 0#32, lastCrc := ⟨0#16, 0#16, false⟩ }
          host := { s.host with responses := ⟨.ok, .none⟩ :: s.host.responses } }

/-- R238, R239, R240, R241: an accepted `POP` on an occupied `rd`, halted or not, answers the slot's record, empties the slot
and advances `rd`; on an empty one it answers EMPTY and changes nothing. -/
def Obligations.PopDeliversOldest : Prop :=
  ∀ s : State, s.block.fsm ≠ .ready →
    ((s.block.slots.getD s.block.rd.toNat emptySample).ws ≠ 0xFFFFFFFFFFFFFFFF#64 →
      exec .pop s =
        .next { s with
          block.slots := s.block.slots.set s.block.rd.toNat emptySample
          block.rd := BitVec.ofNat 8 ((s.block.rd.toNat + 1) % s.cfg.c)
          host.responses :=
            ⟨.sample, .record (s.block.slots.getD s.block.rd.toNat emptySample).record⟩ :: s.host.responses }) ∧
    ((s.block.slots.getD s.block.rd.toNat emptySample).ws = 0xFFFFFFFFFFFFFFFF#64 →
      exec .pop s = .next { s with host.responses := ⟨.empty, .none⟩ :: s.host.responses })

/-- R132: `FEED` while halted changes nothing and answers HALTED. -/
def Obligations.FeedRefusedWhileHalted : Prop :=
  ∀ (s : State) (x : Byte), s.block.fsm ≠ .ready → s.block.halted = true →
    exec (.feed x) s = .next { s with host.responses := ⟨.halted, .none⟩ :: s.host.responses }

/-- R133: in Idle `/` starts a capture; any other byte is discarded. -/
def Obligations.FeedInIdle : Prop :=
  ∀ (s : State) (x : Byte), s.block.fsm = .idle → s.block.halted = false →
    (x = 0x2F#8 →
      exec (.feed x) s =
        .next { s with
          block.fsm := .capturing, block.cap := [0x2F#8], host.responses := ⟨.ok, .none⟩ :: s.host.responses }) ∧
    (x ≠ 0x2F#8 →
      exec (.feed x) s = .next { s with host.responses := ⟨.ok, .none⟩ :: s.host.responses })

/-- R134, R135, R136: while capturing, a byte into a full buffer drops the frame unexamined; else the byte is appended, and
`!` moves to the checksum text. -/
def Obligations.FeedWhileCapturing : Prop :=
  ∀ (s : State) (x : Byte), s.block.fsm = .capturing → s.block.halted = false →
    (s.block.cap.length = s.cfg.cap →
      exec (.feed x) s =
        .next { s with
          block.fsm := .idle
          block.cap := []
          block.cnt := s.block.cnt.set 2 (s.block.cnt[2] + 1#32)
          host.responses := ⟨.ok, .none⟩ :: s.host.responses }) ∧
    (s.block.cap.length ≠ s.cfg.cap → x = 0x21#8 →
      exec (.feed x) s =
        .next { s with
          block.fsm := .readingChecksum
          block.cap := s.block.cap ++ [0x21#8]
          block.ck := []
          host.responses := ⟨.ok, .none⟩ :: s.host.responses }) ∧
    (s.block.cap.length ≠ s.cfg.cap → x ≠ 0x21#8 →
      exec (.feed x) s =
        .next { s with
          block.cap := s.block.cap ++ [x], host.responses := ⟨.ok, .none⟩ :: s.host.responses })

/-- R137, R138: in ReadingChecksum CR or LF ends the text and is not stored; any other byte is stored, and the fourth ends the
text. -/
def Obligations.FeedChecksumText : Prop :=
  ∀ (s : State) (x : Byte), s.block.fsm = .readingChecksum → s.block.halted = false → s.block.ck.length ≤ 3 →
    (x = 0x0D#8 ∨ x = 0x0A#8 →
      exec (.feed x) s =
        .next { s with block.fsm := .ready, host.responses := ⟨.ok, .none⟩ :: s.host.responses }) ∧
    (x ≠ 0x0D#8 → x ≠ 0x0A#8 →
      exec (.feed x) s =
        .next { s with
          block.fsm := if s.block.ck.length = 3 then .ready else .readingChecksum
          block.ck := s.block.ck ++ [x]
          host.responses := ⟨.ok, .none⟩ :: s.host.responses })

/-! ## The registers -/

/-- R44: the fields of `PARAMS` for an accepted configuration, and its value for the default one. -/
def Obligations.ParamsRegister : Prop :=
  (∀ (cfg : Config) (b : Block), cfg.wf = true →
    ((readReg cfg b 0#8).extractLsb' 0 16).toNat = cfg.cap ∧
    ((readReg cfg b 0#8).extractLsb' 16 8).toNat = cfg.fieldCap ∧
    ((readReg cfg b 0#8).extractLsb' 24 8).toNat = cfg.c ∧
    ((readReg cfg b 0#8).extractLsb' 32 32).toNat = cfg.w) ∧
  ∀ b : Block, readReg Config.default b 0#8 = 0x0000012C0A100800#64

/-- R41: every field of `STATUS`, the decoder state in the encoding of R22. -/
def Obligations.StatusRegister : Prop :=
  ∀ (cfg : Config) (b : Block),
    let w := readReg cfg b 1#8
    w.extractLsb' 0 2 =
      (match b.fsm with
        | .idle => 0#2
        | .capturing => 1#2
        | .readingChecksum => 2#2
        | .ready => 3#2) ∧
    (w.getLsbD 2 = true ↔ b.fsm = .ready) ∧
    w.getLsbD 3 = b.halted ∧
    w.getLsbD 4 = b.winActive ∧
    w.extractLsb' 5 3 = 0#3 ∧
    w.extractLsb' 8 8 = BitVec.ofNat 8 (b.rbCount cfg) ∧
    w.extractLsb' 16 8 = b.rd ∧
    w.extractLsb' 24 8 = b.wr ∧
    w.extractLsb' 32 3 = BitVec.ofNat 3 b.ck.length ∧
    w.getLsbD 35 = cfg.fatal ∧
    w.extractLsb' 36 28 = 0#28

/-- R43, R45, R46, and the value R42 gives `CAPLEN`: the other registers. -/
def Obligations.ValueRegisters : Prop :=
  ∀ (cfg : Config) (b : Block),
    readReg cfg b 2#8 = (BitVec.ofNat 16 b.cap.length).setWidth 64 ∧
    readReg cfg b 3#8 = b.now ∧
    readReg cfg b 4#8 = b.winBucket ∧
    readReg cfg b 5#8 = b.acc.n.setWidth 64 ∧
    (∀ i : Fin 8, readReg cfg b (BitVec.ofNat 8 (6 + i.val)) = b.cnt[i].setWidth 64) ∧
    (readReg cfg b 14#8).extractLsb' 0 16 = b.lastCrc.computed ∧
    (readReg cfg b 14#8).extractLsb' 16 16 = b.lastCrc.received ∧
    (readReg cfg b 14#8).getLsbD 32 = b.lastCrc.valid ∧
    (readReg cfg b 14#8).extractLsb' 33 31 = 0#31

/-- R87: the 31 words of a Sample record. -/
def Obligations.SampleRecordLayout : Prop :=
  ∀ s : Sample,
    s.record.length = 31 ∧
    s.record[0]? = some s.ws ∧
    s.record[1]? = some (s.n.setWidth 64) ∧
    (∀ i : Fin 5, s.record[2 + i.val]? = some s.e[i]) ∧
    ∀ k : Fin 8,
      s.record[7 + 3 * k.val]? = some s.m[k].min ∧
      s.record[8 + 3 * k.val]? = some s.m[k].avg ∧
      s.record[9 + 3 * k.val]? = some s.m[k].max

/-- R309: each level output is what its row says it means for the Host: a `POP` would answer SAMPLE, a `FEED` would answer
HALTED, a held command would not be accepted. -/
def Obligations.LevelOutputs : Prop :=
  ∀ s : State,
    (s.block.sampleReady s.cfg = true ↔ 0 < s.block.rbCount s.cfg) ∧
    (s.block.haltOut = s.block.halted) ∧
    (s.block.busyOut = true ↔ s.block.fsm = .ready) ∧
    (s.block.fsm ≠ .ready →
      (s.block.sampleReady s.cfg = true ↔
        ∃ t ws, exec .pop s = .next t ∧ t.host.responses = ⟨.sample, .record ws⟩ :: s.host.responses)) ∧
    (s.block.fsm ≠ .ready → ∀ x,
      (s.block.haltOut = true ↔
        ∃ t, exec (.feed x) s = .next t ∧ t.host.responses = ⟨.halted, .none⟩ :: s.host.responses)) ∧
    (s.block.busyOut = true ↔ exec .nop s = .next s)

/-! ## Encoding -/

/-- R82, R83: a few words written out from the encoding table decode to their commands. -/
def Obligations.EncodedWordsDecode : Prop :=
  decode 0x000000000000000000#72 = .command .nop ∧
  decode 0x01000000000000002F#72 = .command (.feed 0x2F#8) ∧
  decode 0x02000000006553F11B#72 = .command (.setnow 1700000027#64) ∧
  decode 0x030000000000000000#72 = .command .pop ∧
  decode 0x040000000000000001#72 = .command (.rdreg 1#8) ∧
  decode 0x050000000000000000#72 = .command .clrstat ∧
  decode 0x060000000000000000#72 = .command .sreset

/-- R82, R83: decoding the encoding of any legal command gives it back. -/
def Obligations.DecodeInvertsEncode : Prop :=
  ∀ i : Instr, i.wf = true → decode (encode i) = .command i

/-- R80, R82, R84: a word that decodes to a command is that command's one encoding, and the command is legal. -/
def Obligations.EncodeInvertsDecode : Prop :=
  ∀ (w : CmdWord) (i : Instr), decode w = .command i → encode i = w ∧ i.wf = true

/-- R84: the decoder rejects exactly the illegal words, told apart by the bits of the word. -/
def Obligations.IllegalWordsExactly : Prop :=
  ∀ w : CmdWord,
    let op := w.extractLsb' 64 8
    let arg := w.extractLsb' 0 64
    (∃ why, decode w = .illegal why) ↔
      7 ≤ op.toNat ∨
      ((op = 1#8 ∨ op = 4#8) ∧ arg.extractLsb' 8 56 ≠ 0#56) ∨
      ((op = 0#8 ∨ op = 3#8 ∨ op = 5#8 ∨ op = 6#8) ∧ arg ≠ 0#64) ∨
      (op = 2#8 ∧ arg = 0xFFFFFFFFFFFFFFFF#64) ∨
      (op = 4#8 ∧ 15 ≤ (arg.extractLsb' 0 8).toNat)

/-! ## Steps -/

/-- A step runs the decoded command (R268): when the word at the command port is taken and decodes to `i`, the step is `exec i`
on the state whose port has moved on. While BUSY only `RDREG` and `SRESET` are taken (R340), and only where the presentation
puts them ahead of `EVAL` (log 6). -/
def Obligations.StepRunsDecodedCommand : Prop :=
  ∀ (s : State) (p : Presentation) (rest : List Presentation) (i : Instr),
    s.cfg.wf = true → s.host.pending = p :: rest → decode p.word = .command i →
    (s.block.fsm ≠ .ready ∨
      ((p.word.extractLsb' 64 8 = 4#8 ∨ p.word.extractLsb' 64 8 = 6#8) ∧ p.ahead = true)) →
    step s = exec i { s with host.pending := rest }

/-- R263, R266, R267: an accepted illegal word leaves the port, counts `CNT_ILLEGAL`, answers ILLEGAL and changes nothing else. -/
def Obligations.IllegalWordRejected : Prop :=
  ∀ (s : State) (p : Presentation) (rest : List Presentation) (why : Illegal),
    s.cfg.wf = true → s.host.pending = p :: rest → decode p.word = .illegal why →
    (s.block.fsm ≠ .ready ∨
      ((p.word.extractLsb' 64 8 = 4#8 ∨ p.word.extractLsb' 64 8 = 6#8) ∧ p.ahead = true)) →
    step s =
      .next { s with
        block.cnt := s.block.cnt.set 7 (s.block.cnt[7] + 1#32)
        host := { pending := rest, responses := ⟨.illegal, .none⟩ :: s.host.responses } }

/-- R340, R342: while BUSY a word whose opcode is neither `RDREG` nor `SRESET`, a reserved one included, is held: the step is
`EVAL`, the word stays at the port without a response, and the step after it takes the word in the state `EVAL` left. -/
def Obligations.HeldWhileBusy : Prop :=
  ∀ (s : State) (p : Presentation) (rest : List Presentation),
    s.cfg.wf = true → s.block.fsm = .ready → s.host.pending = p :: rest →
    p.word.extractLsb' 64 8 ≠ 4#8 → p.word.extractLsb' 64 8 ≠ 6#8 →
    step s = .next { s with block := s.block.eval s.cfg } ∧
    ∀ i, decode p.word = .command i →
      step { s with block := s.block.eval s.cfg } =
        exec i { s with block := s.block.eval s.cfg, host.pending := rest }

/-- R71, R332, R343: while BUSY a pending `RDREG` or `SRESET` is taken before `EVAL` or after it, both orders being steps of the
model; which of the two is the presentation's bit (log 6). -/
def Obligations.BothOrdersAdmitted : Prop :=
  ∀ (s : State) (w : CmdWord) (rest : List Presentation) (i : Instr),
    s.cfg.wf = true → s.block.fsm = .ready → decode w = .command i →
    (i = .sreset ∨ ∃ idx, i = .rdreg idx) →
    step { s with host.pending := ⟨w, true⟩ :: rest } = exec i { s with host.pending := rest } ∧
    step { s with host.pending := ⟨w, false⟩ :: rest } =
      .next { s with block := s.block.eval s.cfg, host.pending := ⟨w, false⟩ :: rest } ∧
    step { s with block := s.block.eval s.cfg, host.pending := ⟨w, false⟩ :: rest } =
      exec i { s with block := s.block.eval s.cfg, host.pending := rest }

/-- R81: a step either takes no command and gives no response, or takes the one at the port and gives exactly one response. -/
def Obligations.OneResponsePerCommand : Prop :=
  ∀ s t : State, step s = .next t →
    (t.host = s.host) ∨
    ∃ p r, s.host.pending = p :: t.host.pending ∧ t.host.responses = r :: s.host.responses

/-- R10, R36, R308: a configuration that breaks a constraint of R10 is refused; under one that meets them all every step goes
on, and the configuration stays. Two parts are the model's choice: that the refusal of R10 stands in `step` (log 2), and that
a state at rest, where R318 says the block takes no step, has itself as its next state (log 8). -/
def Obligations.EveryStepGoesOn : Prop :=
  let legal : Config → Prop := fun cfg =>
    2 ≤ cfg.cap ∧ cfg.cap ≤ 65535 ∧ 1 ≤ cfg.fieldCap ∧ cfg.fieldCap ≤ 16 ∧ 1 ≤ cfg.c ∧ cfg.c ≤ 255 ∧
      1 ≤ cfg.w ∧ cfg.w ≤ 2 ^ 32 - 1 ∧
      ∀ e ∈ cfg.tagTable, e.1 ≠ [] ∧ 0x28#8 ∉ e.1 ∧ 0x0A#8 ∉ e.1 ∧ 1 ≤ e.2.toNat ∧ e.2.toNat ≤ 14
  (∀ s : State, ¬ legal s.cfg → step s = .refused .badConfiguration) ∧
  (∀ s : State, legal s.cfg → ∃ t, step s = .next t ∧ t.cfg = s.cfg)

/-- R15, R140, R318: with no command at the port the step is `EVAL` exactly when `fsm` is Ready; otherwise the block takes no
step, which the model shows as a step that changes nothing (the model's choice, log 8). -/
def Obligations.EmptyPortStep : Prop :=
  ∀ s : State, s.cfg.wf = true → s.host.pending = [] →
    (s.block.fsm = .ready → step s = .next { s with block := s.block.eval s.cfg }) ∧
    (s.block.fsm ≠ .ready → step s = .next s)

/-- R340, R345: the hold ends. A BUSY block leaves Ready after at most one step more than there are pending commands. -/
def Obligations.BusyEnds : Prop :=
  ∀ s : State, s.cfg.wf = true → s.block.fsm = .ready →
    ∃ k t, k ≤ s.host.pending.length + 1 ∧ Host.Core.run Sys2Proof.core k s = .next t ∧ t.block.fsm ≠ .ready

/-- R300, R34: raising an event adds one, modulo 2^32, to the event's counter, and changes nothing else. -/
def Obligations.EventMovesOneCounter : Prop :=
  ∀ (b : Block) (e f : Event),
    (b.raise e).count e = b.count e + 1#32 ∧
    (f ≠ e → (b.raise e).count f = b.count f) ∧
    { b.raise e with cnt := b.cnt } = b

/-! ## EVAL and the Checksum Engine -/

/-- R142: on a mismatch `EVAL` counts `CRC_FAIL`, records the two values and returns to Idle; nothing else changes. -/
def Obligations.EvalDropsMismatch : Prop :=
  ∀ (cfg : Config) (b : Block), crc16 b.cap ≠ hexval b.ck →
    b.eval cfg =
      { b with
        fsm := .idle
        cnt := b.cnt.set 1 (b.cnt[1] + 1#32)
        lastCrc := ⟨crc16 b.cap, hexval b.ck, true⟩ }

/-- R140, R143, R144: on a match `EVAL` counts `FRAME_OK`, parses the captured frame at the time `now`, and returns to Idle;
`cap`, `ck` and `now` stay, and the two values are recorded. -/
def Obligations.EvalParsesMatch : Prop :=
  ∀ (cfg : Config) (b : Block), crc16 b.cap = hexval b.ck →
    b.eval cfg =
      { ({ b with
            cnt := b.cnt.set 0 (b.cnt[0] + 1#32)
            lastCrc := ⟨crc16 b.cap, hexval b.ck, true⟩ } : Block).parse cfg b.cap b.now with
        fsm := .idle } ∧
    (b.eval cfg).fsm = .idle ∧ (b.eval cfg).cap = b.cap ∧ (b.eval cfg).ck = b.ck ∧ (b.eval cfg).now = b.now ∧
    (b.eval cfg).lastCrc = ⟨crc16 b.cap, hexval b.ck, true⟩

/-- R310: the events of one `EVAL`: `CRC_FAIL` alone, or `FRAME_OK`, then at most one of `EMPTY_WIN` and `SAMPLE_PUSHED`, an
`EVICT` only with `SAMPLE_PUSHED`, and at most one `FIELD_ERR`. -/
def Obligations.EvalEvents : Prop :=
  ∀ (cfg : Config) (b : Block),
    let t := b.eval cfg
    t.count .capDrop = b.count .capDrop ∧ t.count .illegal = b.count .illegal ∧
    ((crc16 b.cap ≠ hexval b.ck ∧ t.count .crcFail = b.count .crcFail + 1#32 ∧ t.count .frameOk = b.count .frameOk ∧
        t.count .emptyWin = b.count .emptyWin ∧ t.count .samplePushed = b.count .samplePushed ∧
        t.count .evict = b.count .evict ∧ t.count .fieldErr = b.count .fieldErr) ∨
      (crc16 b.cap = hexval b.ck ∧ t.count .crcFail = b.count .crcFail ∧ t.count .frameOk = b.count .frameOk + 1#32 ∧
        ((t.count .emptyWin = b.count .emptyWin ∧ t.count .samplePushed = b.count .samplePushed ∧
            t.count .evict = b.count .evict) ∨
          (t.count .emptyWin = b.count .emptyWin + 1#32 ∧ t.count .samplePushed = b.count .samplePushed ∧
            t.count .evict = b.count .evict) ∨
          (t.count .emptyWin = b.count .emptyWin ∧ t.count .samplePushed = b.count .samplePushed + 1#32 ∧
            (t.count .evict = b.count .evict ∨ t.count .evict = b.count .evict + 1#32))) ∧
        (t.count .fieldErr = b.count .fieldErr ∨ t.count .fieldErr = b.count .fieldErr + 1#32)))

/-- R111, R112, R115, R113: the byte step enters the byte by XOR and shifts 8 times, with 0xA001 on a set low bit; the checksum
starts at 0 and takes one byte step for each byte, in order; its value on `123456789` is 0xBB3D. -/
def Obligations.CrcExtendsByStep : Prop :=
  let shift : BitVec 16 → BitVec 16 := fun c => if c.getLsbD 0 = true then (c >>> 1) ^^^ 0xA001#16 else c >>> 1
  (∀ (c : BitVec 16) (b : Byte),
    crcStep c b = shift (shift (shift (shift (shift (shift (shift (shift (c ^^^ b.setWidth 16))))))))) ∧
  crc16 [] = 0x0000#16 ∧
  (∀ (s : List Byte) (b : Byte), crc16 (s ++ [b]) = crcStep (crc16 s) b) ∧
  crc16 [0x31#8, 0x32#8, 0x33#8, 0x34#8, 0x35#8, 0x36#8, 0x37#8, 0x38#8, 0x39#8] = 0xBB3D#16

/-- R117: the checksum is linear over equal lengths, and a change of one byte changes it. -/
def Obligations.CrcDetectsByteChange : Prop :=
  (∀ s t : List Byte, s.length = t.length → crc16 (List.zipWith (· ^^^ ·) s t) = crc16 s ^^^ crc16 t) ∧
  ∀ (pre post : List Byte) (x d : Byte), d ≠ 0#8 →
    crc16 (pre ++ x :: post) ^^^ crc16 (pre ++ (x ^^^ d) :: post) ≠ 0#16

/-- R141: `hexval` reads the longest prefix of hex digits, most significant first, either letter case. -/
def Obligations.HexvalReadsPrefix : Prop :=
  (∀ x : Byte,
    (0x30 ≤ x.toNat → x.toNat ≤ 0x39 → hexDigit x = some (x.toNat - 0x30)) ∧
    (0x41 ≤ x.toNat → x.toNat ≤ 0x46 → hexDigit x = some (x.toNat - 0x41 + 10)) ∧
    (0x61 ≤ x.toNat → x.toNat ≤ 0x66 → hexDigit x = some (x.toNat - 0x61 + 10)) ∧
    (¬ (0x30 ≤ x.toNat ∧ x.toNat ≤ 0x39) → ¬ (0x41 ≤ x.toNat ∧ x.toNat ≤ 0x46) →
      ¬ (0x61 ≤ x.toNat ∧ x.toNat ≤ 0x66) → hexDigit x = none)) ∧
  (∀ t : List Byte, t.length ≤ 4 → (hexval t).toNat = hexvalFrom 0 t) ∧
  hexvalFrom 0 [] = 0 ∧
  (∀ (t : List Byte) (x : Byte) (d : Nat), (∀ y ∈ t, (hexDigit y).isSome = true) → hexDigit x = some d →
    hexvalFrom 0 (t ++ [x]) = hexvalFrom 0 t * 16 + d) ∧
  ∀ (t u : List Byte) (x : Byte), (∀ y ∈ t, (hexDigit y).isSome = true) → hexDigit x = none →
    hexvalFrom 0 (t ++ x :: u) = hexvalFrom 0 t

/-! ## The Telegram Parser -/

/-- R13, R161: the lines hold no LF, their number is one more than that of the LF bytes, and LF between them gives the
telegram back. -/
def Obligations.LinesSplitAtLF : Prop :=
  ∀ s : List Byte,
    (splitLF s).length = s.count 0x0A#8 + 1 ∧
    (∀ l ∈ splitLF s, 0x0A#8 ∉ l) ∧
    List.intercalate [0x0A#8] (splitLF s) = s

/-- R165, R166, R168: a line matches Grammar A with tag and capture exactly when it is the tag, `(`, the capture, `*` and a
rest. -/
def Obligations.GrammarAExactly : Prop :=
  ∀ (line tag num : List Byte),
    matchLine line = some ⟨.a, tag, num⟩ ↔
      tag ≠ [] ∧ 0x28#8 ∉ tag ∧ num ≠ [] ∧ (∀ x ∈ num, isNumeric x = true) ∧
      ∃ rest, line = tag ++ 0x28#8 :: (num ++ 0x2A#8 :: rest)

/-- R165, R167, R168: a line matches Grammar B exactly when it is the tag, `(`, an ignored group, `)(`, the capture, `*` and a
rest, and Grammar A fails on it. -/
def Obligations.GrammarBExactly : Prop :=
  ∀ (line tag num : List Byte),
    matchLine line = some ⟨.b, tag, num⟩ ↔
      tag ≠ [] ∧ 0x28#8 ∉ tag ∧ num ≠ [] ∧ (∀ x ∈ num, isNumeric x = true) ∧
      (∀ num', matchLine line ≠ some ⟨.a, tag, num'⟩) ∧
      ∃ ignored rest, 0x29#8 ∉ ignored ∧
        line = tag ++ 0x28#8 :: (ignored ++ 0x29#8 :: 0x28#8 :: (num ++ 0x2A#8 :: rest))

/-- R170: the value of a capture: its whole digits times 1000 plus its first three fraction digits; 0 if its prefix
`digits [. digits]` has no digit. -/
def Obligations.NumvalReadsDecimal : Prop :=
  decimal [] = 0 ∧
  (∀ (ds : List Byte) (d : Byte), decimal (ds ++ [d]) = decimal ds * 10 + (d.toNat - 0x30)) ∧
  (∀ whole frac tail : List Byte,
    (∀ x ∈ whole, isDigit x = true) → (∀ x ∈ frac, isDigit x = true) →
    (∀ x, tail.head? = some x → isDigit x = false) →
    numvalExact (whole ++ 0x2E#8 :: (frac ++ tail)) =
      decimal whole * 1000 + decimal ((frac ++ [0x30#8, 0x30#8, 0x30#8]).take 3)) ∧
  ∀ whole tail : List Byte,
    (∀ x ∈ whole, isDigit x = true) →
    (∀ x, tail.head? = some x → isDigit x = false ∧ x ≠ 0x2E#8) →
    numvalExact (whole ++ tail) = decimal whole * 1000

/-- R171: a capture of at most `FIELD_CAP` bytes has at most that many whole digits, their value is below 10^16, the value of
the capture below 10^19, and so the conversion never overflows 64 bits. -/
def Obligations.NumvalFits : Prop :=
  ∀ (cfg : Config) (num : List Byte), cfg.wf = true → num.length ≤ cfg.fieldCap →
    (wholeDigits num).length ≤ cfg.fieldCap ∧ cfg.fieldCap ≤ 16 ∧
    decimal (wholeDigits num) ≤ 10 ^ 16 - 1 ∧
    numvalExact num ≤ 10 ^ 19 - 1 ∧ (numval num).toNat = numvalExact num

/-- R173, R174, R175, R176: what each field id updates. -/
def Obligations.UpdateRules : Prop :=
  ∀ (a : Acc) (v : Word) (id : BitVec 4),
    (∀ i : Fin 5, id.toNat = i.val + 1 → a.update (fieldTarget id) v = { a with e := a.e.set i v }) ∧
    (∀ k : Fin 8, id.toNat = k.val + 6 →
      let a' := a.update (fieldTarget id) v
      a'.n = a.n ∧ a'.e = a.e ∧ (∀ j : Fin 8, j ≠ k → a'.m[j] = a.m[j]) ∧
      a'.m[k].min.toNat = (if a.n = 0#32 then v.toNat else min a.m[k].min.toNat v.toNat) ∧
      a'.m[k].sum.toNat = (a.m[k].sum.toNat + v.toNat) % 2 ^ 128 ∧
      a'.m[k].max.toNat = max a.m[k].max.toNat v.toNat) ∧
    (id = 14#4 ∨ id = 0#4 → a.update (fieldTarget id) v = a)

/-- R172: a tag has the id of its one table entry, and id 0 if it has none; a Grammar B match is dispatched only for the gas id. -/
def Obligations.DispatchByTag : Prop :=
  (∀ (cfg : Config) (tag : List Byte) (id : BitVec 4) (pre post : List (List Byte × BitVec 4)),
    cfg.tagTable = pre ++ (tag, id) :: post → (∀ e ∈ pre ++ post, e.1 ≠ tag) → cfg.lookup tag = id) ∧
  (∀ (cfg : Config) (tag : List Byte), (∀ e ∈ cfg.tagTable, e.1 ≠ tag) → cfg.lookup tag = 0#4) ∧
  ∀ (cfg : Config) (b : Block) (r : FieldMatch),
    (r.grammar = .a ∨ cfg.lookup r.tag = 5#4 →
      b.applyField cfg r = { b with acc := b.acc.update (fieldTarget (cfg.lookup r.tag)) (numval r.num) }) ∧
    (r.grammar = .b → cfg.lookup r.tag ≠ 5#4 → b.applyField cfg r = b)

/-- R160, R162, R163, R168, R169, R177, R178, R207: `PARSE` selects the window first and then runs its loop over the lines of
the telegram. The loop: skipped and unmatched lines change nothing, a stop line and
the end count the telegram, a capture longer than `FIELD_CAP` counts `FIELD_ERR`, halts if so configured, and ends the loop
without counting the telegram. -/
def Obligations.ParseLoop : Prop :=
  (∀ (cfg : Config) (b : Block) (tel : List Byte) (t : Word),
    b.parse cfg tel t = (b.selectWindow cfg t).parseLines cfg (splitLF tel)) ∧
  ∀ (cfg : Config) (b : Block) (line : List Byte) (lines : List (List Byte)),
    b.parseLines cfg [] = { b with acc := { b.acc with n := b.acc.n + 1#32 } } ∧
    (line = [] ∨ line.head? = some 0x2F#8 ∨ (∃ x, line.head? = some x ∧ x.toNat < 0x20) →
      b.parseLines cfg (line :: lines) = b.parseLines cfg lines) ∧
    (line.head? = some 0x21#8 →
      b.parseLines cfg (line :: lines) = { b with acc := { b.acc with n := b.acc.n + 1#32 } }) ∧
    (∀ x, line.head? = some x → 0x20 ≤ x.toNat → x ≠ 0x2F#8 → x ≠ 0x21#8 →
      (matchLine line = none → b.parseLines cfg (line :: lines) = b.parseLines cfg lines) ∧
      ∀ r, matchLine line = some r →
        (cfg.fieldCap < r.num.length →
          b.parseLines cfg (line :: lines) =
            { b with
              cnt := b.cnt.set 3 (b.cnt[3] + 1#32)
              halted := b.halted || cfg.fatal }) ∧
        (r.num.length ≤ cfg.fieldCap →
          b.parseLines cfg (line :: lines) = (b.applyField cfg r).parseLines cfg lines))

/-- R179, R180: a metric whose tag stands twice in a window's first telegram ends with the last value as its minimum; one that
comes only after the first telegram ends with minimum 0. -/
def Obligations.MinimumCorners : Prop :=
  (∀ (a : Acc) (k : Fin 8) (v w : Word), a.n = 0#32 →
    (((a.update (.aggregate k) v).update (.aggregate k) w).m[k]).min = w ∧
    (((a.update (.aggregate k) v).update (.aggregate k) w).m[k]).sum =
      a.m[k].sum + v.setWidth 128 + w.setWidth 128) ∧
  ∀ (a : Acc) (k : Fin 8) (v : Word), a.n ≠ 0#32 → a.m[k].min = 0#64 →
    ((a.update (.aggregate k) v).m[k]).min = 0#64

/-! ## The Window Accumulator and the ring -/

/-- R200 to R204: `WINDOW_SELECT` starts a fresh window when none is active, finalizes and starts one when the bucket differs,
and does nothing when it is the same. -/
def Obligations.WindowSelection : Prop :=
  ∀ (cfg : Config) (t : Word) (b : Block),
    let bucket := BitVec.ofNat 64 (t.toNat / cfg.w)
    let fresh : Acc := { n := 0#32, e := Vector.replicate 5 0#64, m := Vector.replicate 8 ⟨0#64, 0#128, 0#64⟩ }
    (b.winActive = false →
      b.selectWindow cfg t = { b with acc := fresh, winBucket := bucket, winActive := true }) ∧
    (b.winActive = true → bucket ≠ b.winBucket →
      b.selectWindow cfg t = { b.finalize cfg with acc := fresh, winBucket := bucket, winActive := true }) ∧
    (b.winActive = true → bucket = b.winBucket → b.selectWindow cfg t = b)

/-- R205, R206: a window without telegrams is discarded and counted; any other is pushed as the Sample of its own start, count,
replace fields, minima, floored averages and maxima. -/
def Obligations.FinalizeBuildsSample : Prop :=
  ∀ (cfg : Config) (b : Block),
    (b.acc.n = 0#32 → b.finalize cfg = { b with cnt := b.cnt.set 6 (b.cnt[6] + 1#32) }) ∧
    (b.acc.n ≠ 0#32 →
      ∃ s : Sample,
        b.finalize cfg = b.push cfg s ∧
        (b.winBucket.toNat * cfg.w ≤ 2 ^ 64 - 2 → s.ws.toNat = b.winBucket.toNat * cfg.w) ∧
        s.n = b.acc.n ∧ s.e = b.acc.e ∧
        ∀ k : Fin 8,
          s.m[k].min = b.acc.m[k].min ∧
          s.m[k].avg.toNat = b.acc.m[k].sum.toNat / b.acc.n.toNat % 2 ^ 64 ∧
          s.m[k].max = b.acc.m[k].max)

/-- R232, R233: `PUSH` into a full ring empties the slot at `rd`, advances `rd` and counts `EVICT` first; then it stores at `wr`,
advances `wr` and counts `SAMPLE_PUSHED`. -/
def Obligations.PushStoresSample : Prop :=
  ∀ (cfg : Config) (b : Block) (s : Sample),
    (b.wr = b.rd → (b.slots.getD b.rd.toNat emptySample).ws ≠ 0xFFFFFFFFFFFFFFFF#64 →
      b.push cfg s =
        { b with
          slots := b.slots.set b.wr.toNat s
          rd := BitVec.ofNat 8 ((b.rd.toNat + 1) % cfg.c)
          wr := BitVec.ofNat 8 ((b.wr.toNat + 1) % cfg.c)
          cnt := (b.cnt.set 5 (b.cnt[5] + 1#32)).set 4 (b.cnt[4] + 1#32) }) ∧
    (b.wr ≠ b.rd ∨ (b.slots.getD b.rd.toNat emptySample).ws = 0xFFFFFFFFFFFFFFFF#64 →
      b.push cfg s =
        { b with
          slots := b.slots.set b.wr.toNat s
          wr := BitVec.ofNat 8 ((b.wr.toNat + 1) % cfg.c)
          cnt := b.cnt.set 4 (b.cnt[4] + 1#32) })

/-- R32: the fill count as the rule defines it; it is at most `C`, and it is `C` exactly when the cursors meet on an occupied
slot. -/
def Obligations.FillCountRange : Prop :=
  ∀ (cfg : Config) (b : Block), cfg.wf = true → b.RingInv cfg →
    ((b.slots.getD b.rd.toNat emptySample).ws = 0xFFFFFFFFFFFFFFFF#64 → b.rbCount cfg = 0) ∧
    ((b.slots.getD b.rd.toNat emptySample).ws ≠ 0xFFFFFFFFFFFFFFFF#64 →
      (b.rbCount cfg : Int) = ((b.wr.toNat : Int) - b.rd.toNat - 1) % cfg.c + 1) ∧
    b.rbCount cfg ≤ cfg.c ∧
    (b.rbCount cfg = cfg.c ↔ b.rd = b.wr ∧ (b.slots.getD b.rd.toNat emptySample).ws ≠ 0xFFFFFFFFFFFFFFFF#64)

/-- R235, R243: the ring is a bounded queue. A push appends, after dropping the oldest Sample of a full ring; a removal at `rd`
takes the oldest; both keep the ring invariant. -/
def Obligations.RingIsBoundedQueue : Prop :=
  ∀ (cfg : Config) (b : Block), cfg.wf = true → b.RingInv cfg →
    (∀ s : Sample, s.ws ≠ 0xFFFFFFFFFFFFFFFF#64 →
      (b.push cfg s).RingInv cfg ∧
      (b.push cfg s).ringList cfg =
        (if (b.ringList cfg).length = cfg.c then (b.ringList cfg).tail else b.ringList cfg) ++ [s]) ∧
    (b.occupied b.rd = true →
      (b.dropOldest cfg).RingInv cfg ∧
      b.ringList cfg = b.slot b.rd :: (b.dropOldest cfg).ringList cfg) ∧
    (b.occupied b.rd = false → b.ringList cfg = [])

/-- R236: pushes into an empty ring leave the most recent `C` Samples, oldest first, and evict the rest. -/
def Obligations.OverwriteLaw : Prop :=
  ∀ (cfg : Config) (b : Block) (ss : List Sample), cfg.wf = true → b.RingInv cfg → b.rbCount cfg = 0 →
    (∀ s ∈ ss, s.ws ≠ 0xFFFFFFFFFFFFFFFF#64) →
    let t := ss.foldl (fun b s => b.push cfg s) b
    t.ringList cfg = ss.drop (ss.length - cfg.c) ∧
    t.rbCount cfg = min ss.length cfg.c ∧
    t.count .evict = b.count .evict + BitVec.ofNat 32 (ss.length - cfg.c) ∧
    t.count .samplePushed = b.count .samplePushed + BitVec.ofNat 32 ss.length

/-! ## Laws over many steps -/

/-- R147: a telegram fed in Idle raises exactly one `FRAME_OK` and is parsed once; its CR LF are discarded, and the decoder is
Idle again. -/
def Obligations.FrameRoundTrip : Prop :=
  ∀ (s : State) (mid : List Byte) (ps rest : List Presentation),
    let body : List Byte := 0x2F#8 :: (mid ++ [0x21#8])
    s.cfg.wf = true → s.block.fsm = .idle → s.block.halted = false →
    0x21#8 ∉ mid → body.length ≤ s.cfg.cap →
    presentsBytes ps (body ++ hex4 (crc16 body) ++ [0x0D#8, 0x0A#8]) → s.host.pending = ps ++ rest →
    ∃ t, Host.Core.run Sys2Proof.core (body.length + 7) s = .next t ∧
      t.cfg = s.cfg ∧ t.host.pending = rest ∧
      t.block.fsm = .idle ∧
      t.block =
        { ({ s.block with
              fsm := .ready
              cap := body
              ck := hex4 (crc16 body)
              cnt := s.block.cnt.set 0 (s.block.cnt[0] + 1#32)
              lastCrc := ⟨crc16 body, crc16 body, true⟩ } : Block).parse s.cfg body s.block.now with
          fsm := .idle } ∧
      t.block.count .frameOk = s.block.count .frameOk + 1#32 ∧
      t.block.count .crcFail = s.block.count .crcFail ∧
      t.block.count .capDrop = s.block.count .capDrop

/-- R147: with one byte between `/` and `!` changed into another that is not `!`, and the checksum text kept, `CRC_FAIL` is raised
and nothing is parsed. -/
def Obligations.CorruptedFrameDropped : Prop :=
  ∀ (s : State) (pre post : List Byte) (x y : Byte) (ps rest : List Presentation),
    let body : List Byte := 0x2F#8 :: (pre ++ x :: (post ++ [0x21#8]))
    let corrupted : List Byte := 0x2F#8 :: (pre ++ y :: (post ++ [0x21#8]))
    s.cfg.wf = true → s.block.fsm = .idle → s.block.halted = false →
    0x21#8 ∉ pre → 0x21#8 ∉ post → x ≠ 0x21#8 → y ≠ 0x21#8 → y ≠ x → body.length ≤ s.cfg.cap →
    presentsBytes ps (corrupted ++ hex4 (crc16 body) ++ [0x0D#8, 0x0A#8]) → s.host.pending = ps ++ rest →
    ∃ t, Host.Core.run Sys2Proof.core (body.length + 7) s = .next t ∧
      t.cfg = s.cfg ∧ t.host.pending = rest ∧
      t.block =
        { s.block with
          cap := corrupted
          ck := hex4 (crc16 body)
          cnt := s.block.cnt.set 1 (s.block.cnt[1] + 1#32)
          lastCrc := ⟨crc16 corrupted, crc16 body, true⟩ }

/-- R148: when the bytes from `/` reach `CAP + 1` without a `!`, the frame is dropped at byte `CAP + 1` and counted, whatever that
byte is. -/
def Obligations.OverlongFrameDropped : Prop :=
  ∀ (cfg : Config) (b : Block) (xs : List Byte) (y : Byte), cfg.wf = true → b.fsm = .idle →
    xs.length + 1 = cfg.cap → 0x21#8 ∉ xs →
    (0x2F#8 :: (xs ++ [y])).foldl (fun b x => b.feedByte cfg x) b =
      { b with fsm := .idle, cap := [], cnt := b.cnt.set 2 (b.cnt[2] + 1#32) }

/-- R212: when every telegram of a window reaches `PARSE` without a field error and carries metric `k` exactly once, the Sample's
count is the number of telegrams, its minimum and maximum are those of the values, and its average is their sum divided by
the count, rounded down. -/
def Obligations.WindowRolloverLaw : Prop :=
  ∀ (cfg : Config) (b : Block) (k : Fin 8) (tels : List (List Byte × Word)) (vs : List Word),
    cfg.wf = true → b.winActive = true → b.acc = freshAcc →
    (∀ tel ∈ tels, bucketOf cfg tel.2 = b.winBucket) →
    List.Forall₂ (fun tel v => carriesOnce cfg k tel.1 v) tels vs →
    tels ≠ [] → tels.length < 2 ^ 32 →
    let s := (tels.foldl (fun b tel => b.parse cfg tel.1 tel.2) b).finalSample cfg
    s.n.toNat = tels.length ∧
    s.m[k].min ∈ vs ∧ s.m[k].max ∈ vs ∧
    (∀ v ∈ vs, s.m[k].min.toNat ≤ v.toNat ∧ v.toNat ≤ s.m[k].max.toNat) ∧
    s.m[k].avg.toNat = (vs.map BitVec.toNat).sum / tels.length

/-- R313, R26: the halted state is left only by `SRESET`. -/
def Obligations.HaltIsSticky : Prop :=
  ∀ s t : State, step s = .next t → s.block.halted = true → t.block.halted = false →
    ∃ p rest, s.host.pending = p :: rest ∧ decode p.word = .command .sreset ∧ t.block = Block.reset s.cfg

/-- R312: only an `EVAL` that counts a field error under `FATAL_ON_FIELD_ERR = 1` halts the block, and it ends in Idle. -/
def Obligations.HaltEntry : Prop :=
  ∀ s t : State, step s = .next t → s.block.halted = false → t.block.halted = true →
    s.block.fsm = .ready ∧ s.cfg.fatal = true ∧ t.block = s.block.eval s.cfg ∧ t.block.fsm = .idle ∧
    t.block.count .fieldErr = s.block.count .fieldErr + 1#32

/-- Every step keeps the invariant of the model: the bounds of the buffers (R23, R24, R146), the form of a captured frame (R163),
a halted block Idle (R313), the times below `EMPTY_TS` (R25, R31), the ring invariant (R33). -/
def Obligations.StepKeepsInvariant : Prop :=
  ∀ s t : State, s.Inv → step s = .next t → t.Inv

/-- The state after reset has the invariant. -/
def Obligations.ResetHasInvariant : Prop := State.reset.Inv

/-- R33, R334: power-on with any accepted configuration gives the invariant, and nothing is occupied. -/
def Obligations.PowerOnHasInvariant : Prop :=
  ∀ cfg : Config, cfg.wf = true → (State.resetWith cfg).Inv ∧ (Block.reset cfg).ringList cfg = []

/-- R94: no line of assembler text assembles to an illegal command, and every word of an assembled program decodes to a
command. -/
def Obligations.AssemblerNeverIllegal : Prop :=
  (∀ (line : List Char) (is : List Instr), assembleLine line = some is → ∀ i ∈ is, i.wf = true) ∧
  ∀ (lines : List (List Char)) (ws : List CmdWord), assemble lines = some ws →
    ∀ w ∈ ws, ∃ i, decode w = .command i

/-- R95, R141: the checksum text a `TELEGRAM` appends reads back as the checksum, and holds no line terminator. -/
def Obligations.ChecksumTextReadsBack : Prop :=
  ∀ v : BitVec 16, hexval (hex4 v) = v ∧ (hex4 v).length = 4 ∧ 0x0D#8 ∉ hex4 v ∧ 0x0A#8 ∉ hex4 v
end

