-- ==== Sys2Proof/Laws/State.lean ====
section
/-! SUPPORT. One lemma per field per update of the block and of the state, each true by unfolding the update once, so that no
later proof unfolds a record update. -/

namespace Sys2Proof.Machine

section raiseFields
variable (b : Block) (e : Event)

@[simp] theorem Block.raise_fsm : (b.raise e).fsm = b.fsm := rfl
@[simp] theorem Block.raise_cap : (b.raise e).cap = b.cap := rfl
@[simp] theorem Block.raise_ck : (b.raise e).ck = b.ck := rfl
@[simp] theorem Block.raise_now : (b.raise e).now = b.now := rfl
@[simp] theorem Block.raise_halted : (b.raise e).halted = b.halted := rfl
@[simp] theorem Block.raise_winActive : (b.raise e).winActive = b.winActive := rfl
@[simp] theorem Block.raise_winBucket : (b.raise e).winBucket = b.winBucket := rfl
@[simp] theorem Block.raise_acc : (b.raise e).acc = b.acc := rfl
@[simp] theorem Block.raise_slots : (b.raise e).slots = b.slots := rfl
@[simp] theorem Block.raise_rd : (b.raise e).rd = b.rd := rfl
@[simp] theorem Block.raise_wr : (b.raise e).wr = b.wr := rfl
@[simp] theorem Block.raise_cnt : (b.raise e).cnt = b.cnt.set e.index (b.cnt[e.index] + 1#32) := rfl
@[simp] theorem Block.raise_lastCrc : (b.raise e).lastCrc = b.lastCrc := rfl

end raiseFields

section startCaptureFields
variable (b : Block) (x : Byte)

@[simp] theorem Block.startCapture_fsm : (b.startCapture x).fsm = b.fsm := rfl
@[simp] theorem Block.startCapture_cap : (b.startCapture x).cap = [x] := rfl
@[simp] theorem Block.startCapture_ck : (b.startCapture x).ck = b.ck := rfl
@[simp] theorem Block.startCapture_now : (b.startCapture x).now = b.now := rfl
@[simp] theorem Block.startCapture_halted : (b.startCapture x).halted = b.halted := rfl
@[simp] theorem Block.startCapture_winActive : (b.startCapture x).winActive = b.winActive := rfl
@[simp] theorem Block.startCapture_winBucket : (b.startCapture x).winBucket = b.winBucket := rfl
@[simp] theorem Block.startCapture_acc : (b.startCapture x).acc = b.acc := rfl
@[simp] theorem Block.startCapture_slots : (b.startCapture x).slots = b.slots := rfl
@[simp] theorem Block.startCapture_rd : (b.startCapture x).rd = b.rd := rfl
@[simp] theorem Block.startCapture_wr : (b.startCapture x).wr = b.wr := rfl
@[simp] theorem Block.startCapture_cnt : (b.startCapture x).cnt = b.cnt := rfl
@[simp] theorem Block.startCapture_lastCrc : (b.startCapture x).lastCrc = b.lastCrc := rfl

end startCaptureFields

section appendCaptureFields
variable (b : Block) (x : Byte)

@[simp] theorem Block.appendCapture_fsm : (b.appendCapture x).fsm = b.fsm := rfl
@[simp] theorem Block.appendCapture_cap : (b.appendCapture x).cap = b.cap ++ [x] := rfl
@[simp] theorem Block.appendCapture_ck : (b.appendCapture x).ck = b.ck := rfl
@[simp] theorem Block.appendCapture_now : (b.appendCapture x).now = b.now := rfl
@[simp] theorem Block.appendCapture_halted : (b.appendCapture x).halted = b.halted := rfl
@[simp] theorem Block.appendCapture_winActive : (b.appendCapture x).winActive = b.winActive := rfl
@[simp] theorem Block.appendCapture_winBucket : (b.appendCapture x).winBucket = b.winBucket := rfl
@[simp] theorem Block.appendCapture_acc : (b.appendCapture x).acc = b.acc := rfl
@[simp] theorem Block.appendCapture_slots : (b.appendCapture x).slots = b.slots := rfl
@[simp] theorem Block.appendCapture_rd : (b.appendCapture x).rd = b.rd := rfl
@[simp] theorem Block.appendCapture_wr : (b.appendCapture x).wr = b.wr := rfl
@[simp] theorem Block.appendCapture_cnt : (b.appendCapture x).cnt = b.cnt := rfl
@[simp] theorem Block.appendCapture_lastCrc : (b.appendCapture x).lastCrc = b.lastCrc := rfl

end appendCaptureFields

section dropCaptureFields
variable (b : Block)

@[simp] theorem Block.dropCapture_fsm : b.dropCapture.fsm = b.fsm := rfl
@[simp] theorem Block.dropCapture_cap : b.dropCapture.cap = [] := rfl
@[simp] theorem Block.dropCapture_ck : b.dropCapture.ck = b.ck := rfl
@[simp] theorem Block.dropCapture_now : b.dropCapture.now = b.now := rfl
@[simp] theorem Block.dropCapture_halted : b.dropCapture.halted = b.halted := rfl
@[simp] theorem Block.dropCapture_winActive : b.dropCapture.winActive = b.winActive := rfl
@[simp] theorem Block.dropCapture_winBucket : b.dropCapture.winBucket = b.winBucket := rfl
@[simp] theorem Block.dropCapture_acc : b.dropCapture.acc = b.acc := rfl
@[simp] theorem Block.dropCapture_slots : b.dropCapture.slots = b.slots := rfl
@[simp] theorem Block.dropCapture_rd : b.dropCapture.rd = b.rd := rfl
@[simp] theorem Block.dropCapture_wr : b.dropCapture.wr = b.wr := rfl
@[simp] theorem Block.dropCapture_cnt : b.dropCapture.cnt = b.cnt := rfl
@[simp] theorem Block.dropCapture_lastCrc : b.dropCapture.lastCrc = b.lastCrc := rfl

end dropCaptureFields

section setSlotFields
variable (b : Block) (i : BitVec 8) (s : Sample)

@[simp] theorem Block.setSlot_fsm : (b.setSlot i s).fsm = b.fsm := rfl
@[simp] theorem Block.setSlot_cap : (b.setSlot i s).cap = b.cap := rfl
@[simp] theorem Block.setSlot_ck : (b.setSlot i s).ck = b.ck := rfl
@[simp] theorem Block.setSlot_now : (b.setSlot i s).now = b.now := rfl
@[simp] theorem Block.setSlot_halted : (b.setSlot i s).halted = b.halted := rfl
@[simp] theorem Block.setSlot_winActive : (b.setSlot i s).winActive = b.winActive := rfl
@[simp] theorem Block.setSlot_winBucket : (b.setSlot i s).winBucket = b.winBucket := rfl
@[simp] theorem Block.setSlot_acc : (b.setSlot i s).acc = b.acc := rfl
@[simp] theorem Block.setSlot_slots : (b.setSlot i s).slots = b.slots.set i.toNat s := rfl
@[simp] theorem Block.setSlot_rd : (b.setSlot i s).rd = b.rd := rfl
@[simp] theorem Block.setSlot_wr : (b.setSlot i s).wr = b.wr := rfl
@[simp] theorem Block.setSlot_cnt : (b.setSlot i s).cnt = b.cnt := rfl
@[simp] theorem Block.setSlot_lastCrc : (b.setSlot i s).lastCrc = b.lastCrc := rfl

end setSlotFields

section dropOldestFields
variable (b : Block) (cfg : Config)

@[simp] theorem Block.dropOldest_fsm : (b.dropOldest cfg).fsm = b.fsm := rfl
@[simp] theorem Block.dropOldest_cap : (b.dropOldest cfg).cap = b.cap := rfl
@[simp] theorem Block.dropOldest_ck : (b.dropOldest cfg).ck = b.ck := rfl
@[simp] theorem Block.dropOldest_now : (b.dropOldest cfg).now = b.now := rfl
@[simp] theorem Block.dropOldest_halted : (b.dropOldest cfg).halted = b.halted := rfl
@[simp] theorem Block.dropOldest_winActive : (b.dropOldest cfg).winActive = b.winActive := rfl
@[simp] theorem Block.dropOldest_winBucket : (b.dropOldest cfg).winBucket = b.winBucket := rfl
@[simp] theorem Block.dropOldest_acc : (b.dropOldest cfg).acc = b.acc := rfl
@[simp] theorem Block.dropOldest_slots : (b.dropOldest cfg).slots = b.slots.set b.rd.toNat emptySample := rfl
@[simp] theorem Block.dropOldest_rd : (b.dropOldest cfg).rd = nextCursor cfg b.rd := rfl
@[simp] theorem Block.dropOldest_wr : (b.dropOldest cfg).wr = b.wr := rfl
@[simp] theorem Block.dropOldest_cnt : (b.dropOldest cfg).cnt = b.cnt := rfl
@[simp] theorem Block.dropOldest_lastCrc : (b.dropOldest cfg).lastCrc = b.lastCrc := rfl

end dropOldestFields

section storeSampleFields
variable (b : Block) (cfg : Config) (s : Sample)

@[simp] theorem Block.storeSample_fsm : (b.storeSample cfg s).fsm = b.fsm := rfl
@[simp] theorem Block.storeSample_cap : (b.storeSample cfg s).cap = b.cap := rfl
@[simp] theorem Block.storeSample_ck : (b.storeSample cfg s).ck = b.ck := rfl
@[simp] theorem Block.storeSample_now : (b.storeSample cfg s).now = b.now := rfl
@[simp] theorem Block.storeSample_halted : (b.storeSample cfg s).halted = b.halted := rfl
@[simp] theorem Block.storeSample_winActive : (b.storeSample cfg s).winActive = b.winActive := rfl
@[simp] theorem Block.storeSample_winBucket : (b.storeSample cfg s).winBucket = b.winBucket := rfl
@[simp] theorem Block.storeSample_acc : (b.storeSample cfg s).acc = b.acc := rfl
@[simp] theorem Block.storeSample_slots : (b.storeSample cfg s).slots = b.slots.set b.wr.toNat s := rfl
@[simp] theorem Block.storeSample_rd : (b.storeSample cfg s).rd = b.rd := rfl
@[simp] theorem Block.storeSample_wr : (b.storeSample cfg s).wr = nextCursor cfg b.wr := rfl
@[simp] theorem Block.storeSample_cnt : (b.storeSample cfg s).cnt = b.cnt.set Event.samplePushed.index (b.cnt[Event.samplePushed.index] + 1#32) := rfl
@[simp] theorem Block.storeSample_lastCrc : (b.storeSample cfg s).lastCrc = b.lastCrc := rfl

end storeSampleFields

section startWindowFields
variable (b : Block) (bucket : Word)

@[simp] theorem Block.startWindow_fsm : (b.startWindow bucket).fsm = b.fsm := rfl
@[simp] theorem Block.startWindow_cap : (b.startWindow bucket).cap = b.cap := rfl
@[simp] theorem Block.startWindow_ck : (b.startWindow bucket).ck = b.ck := rfl
@[simp] theorem Block.startWindow_now : (b.startWindow bucket).now = b.now := rfl
@[simp] theorem Block.startWindow_halted : (b.startWindow bucket).halted = b.halted := rfl
@[simp] theorem Block.startWindow_winActive : (b.startWindow bucket).winActive = true := rfl
@[simp] theorem Block.startWindow_winBucket : (b.startWindow bucket).winBucket = bucket := rfl
@[simp] theorem Block.startWindow_acc : (b.startWindow bucket).acc = freshAcc := rfl
@[simp] theorem Block.startWindow_slots : (b.startWindow bucket).slots = b.slots := rfl
@[simp] theorem Block.startWindow_rd : (b.startWindow bucket).rd = b.rd := rfl
@[simp] theorem Block.startWindow_wr : (b.startWindow bucket).wr = b.wr := rfl
@[simp] theorem Block.startWindow_cnt : (b.startWindow bucket).cnt = b.cnt := rfl
@[simp] theorem Block.startWindow_lastCrc : (b.startWindow bucket).lastCrc = b.lastCrc := rfl

end startWindowFields

section countTelegramFields
variable (b : Block)

@[simp] theorem Block.countTelegram_fsm : b.countTelegram.fsm = b.fsm := rfl
@[simp] theorem Block.countTelegram_cap : b.countTelegram.cap = b.cap := rfl
@[simp] theorem Block.countTelegram_ck : b.countTelegram.ck = b.ck := rfl
@[simp] theorem Block.countTelegram_now : b.countTelegram.now = b.now := rfl
@[simp] theorem Block.countTelegram_halted : b.countTelegram.halted = b.halted := rfl
@[simp] theorem Block.countTelegram_winActive : b.countTelegram.winActive = b.winActive := rfl
@[simp] theorem Block.countTelegram_winBucket : b.countTelegram.winBucket = b.winBucket := rfl
@[simp] theorem Block.countTelegram_acc : b.countTelegram.acc = { b.acc with n := b.acc.n + 1#32 } := rfl
@[simp] theorem Block.countTelegram_slots : b.countTelegram.slots = b.slots := rfl
@[simp] theorem Block.countTelegram_rd : b.countTelegram.rd = b.rd := rfl
@[simp] theorem Block.countTelegram_wr : b.countTelegram.wr = b.wr := rfl
@[simp] theorem Block.countTelegram_cnt : b.countTelegram.cnt = b.cnt := rfl
@[simp] theorem Block.countTelegram_lastCrc : b.countTelegram.lastCrc = b.lastCrc := rfl

end countTelegramFields

section recordCrcFields
variable (b : Block)

@[simp] theorem Block.recordCrc_fsm : b.recordCrc.fsm = b.fsm := rfl
@[simp] theorem Block.recordCrc_cap : b.recordCrc.cap = b.cap := rfl
@[simp] theorem Block.recordCrc_ck : b.recordCrc.ck = b.ck := rfl
@[simp] theorem Block.recordCrc_now : b.recordCrc.now = b.now := rfl
@[simp] theorem Block.recordCrc_halted : b.recordCrc.halted = b.halted := rfl
@[simp] theorem Block.recordCrc_winActive : b.recordCrc.winActive = b.winActive := rfl
@[simp] theorem Block.recordCrc_winBucket : b.recordCrc.winBucket = b.winBucket := rfl
@[simp] theorem Block.recordCrc_acc : b.recordCrc.acc = b.acc := rfl
@[simp] theorem Block.recordCrc_slots : b.recordCrc.slots = b.slots := rfl
@[simp] theorem Block.recordCrc_rd : b.recordCrc.rd = b.rd := rfl
@[simp] theorem Block.recordCrc_wr : b.recordCrc.wr = b.wr := rfl
@[simp] theorem Block.recordCrc_cnt : b.recordCrc.cnt = b.cnt := rfl
@[simp] theorem Block.recordCrc_lastCrc : b.recordCrc.lastCrc = ⟨crc16 b.cap, hexval b.ck, true⟩ := rfl

end recordCrcFields

section respondFields
variable (s : State) (r : Response)

@[simp] theorem State.respond_cfg : (s.respond r).cfg = s.cfg := rfl
@[simp] theorem State.respond_block : (s.respond r).block = s.block := rfl
@[simp] theorem State.respond_pending : (s.respond r).host.pending = s.host.pending := rfl
@[simp] theorem State.respond_responses : (s.respond r).host.responses = r :: s.host.responses := rfl

end respondFields

section rejectIllegalFields
variable (s : State)

@[simp] theorem State.rejectIllegal_cfg : s.rejectIllegal.cfg = s.cfg := rfl
@[simp] theorem State.rejectIllegal_block : s.rejectIllegal.block = s.block.raise .illegal := rfl
@[simp] theorem State.rejectIllegal_pending : s.rejectIllegal.host.pending = s.host.pending := rfl
@[simp] theorem State.rejectIllegal_responses : s.rejectIllegal.host.responses = bareResponse .illegal :: s.host.responses := rfl

end rejectIllegalFields

section takeCommandFields
variable (s : State)

@[simp] theorem State.takeCommand_cfg : s.takeCommand.cfg = s.cfg := rfl
@[simp] theorem State.takeCommand_block : s.takeCommand.block = s.block := rfl
@[simp] theorem State.takeCommand_pending : s.takeCommand.host.pending = s.host.pending.tail := rfl
@[simp] theorem State.takeCommand_responses : s.takeCommand.host.responses = s.host.responses := rfl

end takeCommandFields

section evaluateFields
variable (s : State)

@[simp] theorem State.evaluate_cfg : s.evaluate.cfg = s.cfg := rfl
@[simp] theorem State.evaluate_block : s.evaluate.block = s.block.eval s.cfg := rfl
@[simp] theorem State.evaluate_pending : s.evaluate.host.pending = s.host.pending := rfl
@[simp] theorem State.evaluate_responses : s.evaluate.host.responses = s.host.responses := rfl

end evaluateFields

section presentFields
variable (s : State) (p : Presentation)

@[simp] theorem State.present_cfg : (s.present p).cfg = s.cfg := rfl
@[simp] theorem State.present_block : (s.present p).block = s.block := rfl
@[simp] theorem State.present_pending : (s.present p).host.pending = p :: s.host.pending := rfl
@[simp] theorem State.present_responses : (s.present p).host.responses = s.host.responses := rfl

end presentFields

@[simp] theorem State.resetWith_cfg (cfg : Config) : (State.resetWith cfg).cfg = cfg := rfl
@[simp] theorem State.resetWith_block (cfg : Config) : (State.resetWith cfg).block = Block.reset cfg := rfl
@[simp] theorem Block.restart_eq (cfg : Config) (b : Block) : b.restart cfg = Block.reset cfg := rfl

end Sys2Proof.Machine
end

