-- ==== Sys2Proof/Laws/Ops.lean ====
section
/-! SUPPORT. For each shared operation of the machine, what it can do, said once: the later proofs cite these lemmas instead
of unfolding the operations. -/

namespace Sys2Proof.Machine

/-- Different events have different counters (R34). -/
theorem Event.index_inj {e f : Event} : e.index = f.index ↔ e = f := by
  cases e <;> cases f <;> decide

/-- Raising an event moves its own counter by one and no other (R300). -/
theorem Block.count_raise (b : Block) (e f : Event) :
    (b.raise e).count f = if e = f then b.count e + 1#32 else b.count f := by
  unfold Block.count
  by_cases h : e = f
  · subst h; simp
  · have hi : e.index.val ≠ f.index.val := fun hv => h (Event.index_inj.mp (Fin.ext hv))
    simp [h, Vector.getElem_set_ne _ _ hi]

/-- Removing a Sample counts nothing (R238). -/
theorem Block.count_dropOldest (cfg : Config) (b : Block) (e : Event) :
    (b.dropOldest cfg).count e = b.count e := rfl

/-- Storing a Sample counts `SAMPLE_PUSHED` (R232). -/
theorem Block.count_storeSample (cfg : Config) (s : Sample) (b : Block) (e : Event) :
    (b.storeSample cfg s).count e = if e = .samplePushed then b.count e + 1#32 else b.count e := by
  have h : (b.storeSample cfg s).count e = if Event.samplePushed = e then b.count .samplePushed + 1#32 else b.count e :=
    Block.count_raise { b.setSlot b.wr s with wr := nextCursor cfg b.wr } .samplePushed e
  rw [h]
  by_cases he : e = .samplePushed
  · subst he; rfl
  · rw [if_neg he, if_neg (Ne.symm he)]

/-- Starting a window counts nothing (R204). -/
theorem Block.count_startWindow (bucket : Word) (b : Block) (e : Event) :
    (b.startWindow bucket).count e = b.count e := rfl

/-- Counting a telegram moves `acc.n`, no event counter (R177). -/
theorem Block.count_countTelegram (b : Block) (e : Event) : b.countTelegram.count e = b.count e := rfl

/-- Recording the checksums counts nothing (R35). -/
theorem Block.count_recordCrc (b : Block) (e : Event) : b.recordCrc.count e = b.count e := rfl

/-- What `FIELD_ERROR` does, in one update (R178). -/
theorem Block.fieldError_eq (cfg : Config) (b : Block) :
    b.fieldError cfg = { b.raise .fieldErr with halted := cfg.fatal || b.halted } := by
  unfold Block.fieldError
  cases cfg.fatal <;> rfl

/-- A command is held, or takes effect, or is rejected (R268). -/
theorem accept_cases (op : Byte) (legal : Bool) (effect : State → State) (s : State) :
    (s.block.holds op = true ∧ accept op legal effect s = s) ∨
    (s.block.holds op = false ∧ legal = true ∧ accept op legal effect s = effect s) ∨
    (s.block.holds op = false ∧ legal = false ∧ accept op legal effect s = s.rejectIllegal) := by
  unfold accept
  cases s.block.holds op <;> cases legal <;> simp

/-- BUSY is the state Ready (R38). -/
theorem Block.busy_iff (b : Block) : b.busy = true ↔ b.fsm = .ready := by
  unfold Block.busy
  cases b.fsm <;> decide

/-- A block that is not BUSY holds no command (R340). -/
theorem Block.holds_of_not_busy {b : Block} (h : b.busy = false) (op : Byte) : b.holds op = false := by
  simp [Block.holds, h]

/-- `RDREG` is never held (R82). -/
theorem Block.holds_rdreg (b : Block) : b.holds opRdreg = false := by
  simp [Block.holds, heldOpcode]

/-- `SRESET` is never held (R82). -/
theorem Block.holds_sreset (b : Block) : b.holds opSreset = false := by
  simp [Block.holds, heldOpcode]

/-- A slot reads what was written to it (R62). -/
theorem Block.slot_setSlot_self (b : Block) (i : BitVec 8) (s : Sample) (h : i.toNat < b.slots.length) :
    (b.setSlot i s).slot i = s := by
  simp [Block.slot, List.getD_eq_getElem?_getD, h]

/-- Writing a slot leaves the others (R62). -/
theorem Block.slot_setSlot_ne (b : Block) (i j : BitVec 8) (s : Sample) (h : i.toNat ≠ j.toNat) :
    (b.setSlot i s).slot j = b.slot j := by
  simp [Block.slot, List.getD_eq_getElem?_getD, List.getElem?_set_ne h]

/-- A cursor stays below `C` (R30). -/
theorem nextCursor_lt (cfg : Config) (i : BitVec 8) (h : 1 ≤ cfg.c) :
    (nextCursor cfg i).toNat < cfg.c := by
  unfold nextCursor
  have hm : (i.toNat + 1) % cfg.c < cfg.c := Nat.mod_lt _ h
  simp only [BitVec.toNat_ofNat]
  exact Nat.lt_of_le_of_lt (Nat.mod_le _ _) hm

/-- The next cursor as a number (R232), for a capacity that fits the cursor (R10). -/
theorem nextCursor_toNat (cfg : Config) (i : BitVec 8) (h : 1 ≤ cfg.c) (hc : cfg.c ≤ 255) :
    (nextCursor cfg i).toNat = (i.toNat + 1) % cfg.c := by
  unfold nextCursor
  have hm : (i.toNat + 1) % cfg.c < cfg.c := Nat.mod_lt _ h
  simp only [BitVec.toNat_ofNat]
  exact Nat.mod_eq_of_lt (by omega)

/-- What `PUSH` does: into a full ring after dropping the oldest Sample, else at once (R232). -/
theorem Block.push_cases (cfg : Config) (s : Sample) (b : Block) :
    (b.ringFull = true ∧ b.push cfg s = ((b.dropOldest cfg).raise .evict).storeSample cfg s) ∨
    (b.ringFull = false ∧ b.push cfg s = b.storeSample cfg s) := by
  unfold Block.push Block.evictIfFull
  cases b.ringFull <;> simp

/-- Storing a Sample writes the ring and the counters, nothing else (R62, R232). -/
theorem Block.storeSample_eq (cfg : Config) (s : Sample) (b : Block) :
    b.storeSample cfg s =
      { b with
        slots := (b.setSlot b.wr s).slots
        wr := nextCursor cfg b.wr
        cnt := ({ b.setSlot b.wr s with wr := nextCursor cfg b.wr }.raise .samplePushed).cnt } := rfl

/-- `PUSH` writes the ring and the counters, nothing else (R62, R232). -/
theorem Block.push_frame (cfg : Config) (s : Sample) (b : Block) :
    ∃ slots rd wr cnt, b.push cfg s = { b with slots := slots, rd := rd, wr := wr, cnt := cnt } := by
  rcases b.push_cases cfg s with ⟨-, h⟩ | ⟨-, h⟩ <;> rw [h, Block.storeSample_eq]
  · exact ⟨_, nextCursor cfg b.rd, _, _, rfl⟩
  · exact ⟨_, b.rd, _, _, rfl⟩

/-- What `FINALIZE` does (R205, R206). -/
theorem Block.finalize_cases (cfg : Config) (b : Block) :
    (b.acc.n = 0#32 ∧ b.finalize cfg = b.raise .emptyWin) ∨
    (b.acc.n ≠ 0#32 ∧ b.finalize cfg = b.push cfg (b.finalSample cfg)) := by
  unfold Block.finalize
  by_cases h : b.acc.n = 0#32 <;> simp [h]

/-- `FINALIZE` writes the ring and the counters, nothing else (R205, R206). -/
theorem Block.finalize_frame (cfg : Config) (b : Block) :
    ∃ slots rd wr cnt, b.finalize cfg = { b with slots := slots, rd := rd, wr := wr, cnt := cnt } := by
  rcases b.finalize_cases cfg with ⟨-, h⟩ | ⟨-, h⟩ <;> rw [h]
  · exact ⟨_, _, _, _, rfl⟩
  · exact b.push_frame cfg _

/-- What `WINDOW_SELECT` does (R200 to R203). -/
theorem Block.selectWindow_cases (cfg : Config) (t : Word) (b : Block) :
    (b.winActive = false ∧ b.selectWindow cfg t = b.startWindow (bucketOf cfg t)) ∨
    (b.winActive = true ∧ bucketOf cfg t ≠ b.winBucket ∧
      b.selectWindow cfg t = (b.finalize cfg).startWindow (bucketOf cfg t)) ∨
    (b.winActive = true ∧ bucketOf cfg t = b.winBucket ∧ b.selectWindow cfg t = b) := by
  unfold Block.selectWindow
  by_cases hb : bucketOf cfg t = b.winBucket <;> cases b.winActive <;> simp [hb]

/-- A matched line changes the accumulator, nothing else (R172 to R176). -/
theorem Block.applyField_eq (cfg : Config) (r : FieldMatch) (b : Block) :
    ∃ acc, b.applyField cfg r = { b with acc := acc } ∧ acc.n = b.acc.n := by
  unfold Block.applyField
  by_cases h : r.grammar = .b ∧ cfg.lookup r.tag ≠ 5#4
  · exact ⟨b.acc, by simp [h], rfl⟩
  · refine ⟨_, by simp only [h, if_false]; rfl, ?_⟩
    cases fieldTarget (cfg.lookup r.tag) <;> rfl

/-- What the loop of `PARSE` does: it changes the accumulator and counts the telegram, or ends in a field error (R164). -/
theorem Block.parseLines_cases (cfg : Config) (lines : List (List Byte)) (b : Block) :
    ∃ acc : Acc, acc.n = b.acc.n ∧
      (b.parseLines cfg lines = ({ b with acc := acc } : Block).countTelegram ∨
        b.parseLines cfg lines = ({ b with acc := acc } : Block).fieldError cfg) := by
  induction lines generalizing b with
  | nil => exact ⟨b.acc, rfl, .inl rfl⟩
  | cons line lines ih =>
    unfold Block.parseLines
    split
    · exact ih b
    · split
      · exact ⟨b.acc, rfl, .inl rfl⟩
      · split
        · exact ih b
        · split
          · exact ⟨b.acc, rfl, .inr rfl⟩
          · next r _ _ =>
            obtain ⟨acc, hacc, hn⟩ := b.applyField_eq cfg r
            rw [hacc]
            obtain ⟨acc', hn', h⟩ := ih { b with acc := acc }
            exact ⟨acc', hn'.trans hn, h⟩

/-- What `EVAL` does: it drops the frame, or parses it (R140 to R144). -/
theorem Block.eval_cases (cfg : Config) (b : Block) :
    (crc16 b.cap ≠ hexval b.ck ∧ b.eval cfg = { b.recordCrc.raise .crcFail with fsm := .idle }) ∨
    (crc16 b.cap = hexval b.ck ∧
      b.eval cfg = { (b.recordCrc.raise .frameOk).parse cfg b.cap b.now with fsm := .idle }) := by
  unfold Block.eval
  by_cases h : crc16 b.cap = hexval b.ck <;> simp [h]

/-- The checksum of the empty sequence (R112). -/
theorem crc16_nil : crc16 [] = 0x0000#16 := rfl

/-- Every meaning answers a next state: no command faults or is refused (R308). -/
theorem exec_next (i : Instr) (s : State) : ∃ t, exec i s = .next t := by
  cases i <;> exact ⟨_, rfl⟩

/-- What a step can do, said once: it is refused for its configuration; it rests; the Sequencer evaluates; the port's
command is executed; or the port's illegal word is rejected (R15). -/
theorem step_cases (s : State) :
    (s.cfg.wf = false ∧ step s = .refused .badConfiguration) ∨
    (s.cfg.wf = true ∧ s.host.pending = [] ∧ s.block.busy = false ∧ step s = .next s) ∨
    (s.cfg.wf = true ∧ s.block.busy = true ∧ step s = .next s.evaluate) ∨
    (∃ p rest i, s.cfg.wf = true ∧ s.host.pending = p :: rest ∧ s.block.takes p = true ∧
      decode p.word = .command i ∧ step s = exec i s.takeCommand) ∨
    (∃ p rest why, s.cfg.wf = true ∧ s.host.pending = p :: rest ∧ s.block.takes p = true ∧
      decode p.word = .illegal why ∧ step s = .next s.takeCommand.rejectIllegal) := by
  unfold step nextAction
  cases hw : s.cfg.wf
  · left; simp
  right
  cases hp : s.host.pending with
  | nil =>
    cases hb : s.block.busy
    · left; simp
    · right; left; simp
  | cons p rest =>
    cases ht : s.block.takes p
    · right; left
      have hb : s.block.busy = true := by
        unfold Block.takes at ht
        cases hb : s.block.busy
        · simp [hb] at ht
        · rfl
      simp [hb, ht]
    · cases hd : decode p.word with
      | command i =>
        right; right; left
        exact ⟨p, rest, i, rfl, rfl, ht, hd, by simp [ht, portAction, hd]⟩
      | illegal why =>
        right; right; right
        exact ⟨p, rest, why, rfl, rfl, ht, hd, by simp [ht, portAction, hd]⟩

end Sys2Proof.Machine
end

