-- ==== Sys2Proof/Laws/Memory.lean ====
section
/-! SUPPORT. The form of the block's arrays (`Block.memoryWf`) holds after reset and is kept by every operation that writes
one of them (R60 to R62). -/

namespace Sys2Proof.Machine

/-- The form of the arrays, as three bounds. -/
theorem Block.memoryWf_iff (cfg : Config) (b : Block) :
    b.memoryWf cfg = true ↔ b.cap.length ≤ cfg.cap ∧ b.ck.length ≤ 4 ∧ b.slots.length = cfg.c := by
  simp [Block.memoryWf, and_assoc]

/-- The form of the arrays looks at the three arrays only. -/
theorem Block.memoryWf_congr {cfg : Config} {a b : Block} (hcap : a.cap = b.cap) (hck : a.ck = b.ck)
    (hs : a.slots.length = b.slots.length) (h : b.memoryWf cfg = true) : a.memoryWf cfg = true := by
  rw [Block.memoryWf_iff] at *
  rwa [hcap, hck, hs]

theorem Block.memoryWf_reset (cfg : Config) : (Block.reset cfg).memoryWf cfg = true := by
  simp [Block.memoryWf, Block.reset]

theorem State.memoryWf_reset : State.reset.block.memoryWf State.reset.cfg = true :=
  Block.memoryWf_reset _

theorem Block.memoryWf_stepIdle {cfg : Config} {b : Block} (x : Byte) (hc : 1 ≤ cfg.cap)
    (h : b.memoryWf cfg = true) : (b.stepIdle x).memoryWf cfg = true := by
  unfold Block.stepIdle
  split
  · rw [Block.memoryWf_iff] at *
    exact ⟨by simpa using hc, h.2⟩
  · exact h

theorem Block.memoryWf_stepCapture {cfg : Config} {b : Block} (x : Byte) (h : b.memoryWf cfg = true) :
    (b.stepCapture cfg x).memoryWf cfg = true := by
  unfold Block.stepCapture
  rw [Block.memoryWf_iff] at *
  obtain ⟨hcap, hck, hs⟩ := h
  split
  · exact ⟨Nat.zero_le _, hck, hs⟩
  · have hlt : (b.cap ++ [x]).length ≤ cfg.cap := by simp; omega
    split
    · exact ⟨hlt, Nat.zero_le _, hs⟩
    · exact ⟨hlt, hck, hs⟩

theorem Block.memoryWf_stepChecksum {cfg : Config} {b : Block} (x : Byte) (hlt : b.ck.length < 4)
    (h : b.memoryWf cfg = true) : (b.stepChecksum x).memoryWf cfg = true := by
  unfold Block.stepChecksum
  rw [Block.memoryWf_iff] at *
  obtain ⟨hcap, -, hs⟩ := h
  have hck : (b.ck ++ [x]).length ≤ 4 := by simp; omega
  split
  · exact ⟨hcap, Nat.le_of_lt hlt, hs⟩
  · dsimp only
    split
    · exact ⟨hcap, hck, hs⟩
    · exact ⟨hcap, hck, hs⟩

theorem Block.memoryWf_dropOldest {cfg : Config} {b : Block} (h : b.memoryWf cfg = true) :
    (b.dropOldest cfg).memoryWf cfg = true :=
  Block.memoryWf_congr (b := b) rfl rfl (by simp) h

theorem Block.memoryWf_push {cfg : Config} {b : Block} (s : Sample) (h : b.memoryWf cfg = true) :
    (b.push cfg s).memoryWf cfg = true := by
  rcases b.push_cases cfg s with ⟨-, hp⟩ | ⟨-, hp⟩ <;> rw [hp]
  · exact Block.memoryWf_congr (b := b) (by simp) (by simp) (by simp) h
  · exact Block.memoryWf_congr (b := b) (by simp) (by simp) (by simp) h

theorem Block.memoryWf_selectWindow {cfg : Config} {b : Block} (t : Word) (h : b.memoryWf cfg = true) :
    (b.selectWindow cfg t).memoryWf cfg = true := by
  rcases b.selectWindow_cases cfg t with ⟨-, hs⟩ | ⟨-, -, hs⟩ | ⟨-, -, hs⟩ <;> rw [hs]
  · exact h
  · rcases b.finalize_cases cfg with ⟨-, hf⟩ | ⟨-, hf⟩ <;> rw [hf]
    · exact h
    · exact Block.memoryWf_push (b.finalSample cfg) h
  · exact h

theorem Block.memoryWf_eval {cfg : Config} {b : Block} (h : b.memoryWf cfg = true) :
    (b.eval cfg).memoryWf cfg = true := by
  rcases b.eval_cases cfg with ⟨-, he⟩ | ⟨-, he⟩ <;> rw [he]
  · exact h
  · have hw := Block.memoryWf_selectWindow (b := b.recordCrc.raise .frameOk) b.now h
    obtain ⟨acc, -, hp | hp⟩ :=
      Block.parseLines_cases cfg (splitLF b.cap) ((b.recordCrc.raise .frameOk).selectWindow cfg b.now)
    · unfold Block.parse; rw [hp]; exact hw
    · unfold Block.parse; rw [hp, Block.fieldError_eq]; exact hw

end Sys2Proof.Machine
end

