-- ==== Sys2Proof/Laws/PerInstr.lean ====
section
/-! SUPPORT. Laws of every command, one lemma per constructor: the encoder puts the opcode and the operand into the fields
the decoder reads them from (R80, R82, R83). -/

namespace Sys2Proof.Laws

/-- The two fields of a word built from an opcode and an argument (R80). -/
theorem fields_of_append (op : Byte) (arg : Word) :
    opOf (op ++ arg : CmdWord) = op ∧ argOf (op ++ arg : CmdWord) = arg := by
  constructor
  · unfold opOf; exact BitVec.extractLsb'_append_eq_left
  · unfold argOf; exact BitVec.extractLsb'_append_eq_right

/-- The operand byte of `FEED` and `RDREG` (R83). -/
theorem argByte_setWidth (b : Byte) : argByte (b.setWidth 64) = b := by
  unfold argByte; ext i hi; simp [hi]; omega

/-- The must-be-zero bits of `FEED` and `RDREG` (R82). -/
theorem argHigh_setWidth (b : Byte) : argHigh (b.setWidth 64) = 0#56 := by
  unfold argHigh; ext i hi; simp

/-- The encoder's fields are what the decoder reads. -/
def EncodedFields.Statement (i : Instr) : Prop :=
  opOf (encode i) = opcode i ∧ argOf (encode i) = operand i

theorem EncodedFields.nop : EncodedFields.Statement .nop := fields_of_append _ _
theorem EncodedFields.feed (b : Byte) : EncodedFields.Statement (.feed b) := fields_of_append _ _
theorem EncodedFields.setnow (t : Word) : EncodedFields.Statement (.setnow t) := fields_of_append _ _
theorem EncodedFields.pop : EncodedFields.Statement .pop := fields_of_append _ _
theorem EncodedFields.rdreg (idx : Byte) : EncodedFields.Statement (.rdreg idx) := fields_of_append _ _
theorem EncodedFields.clrstat : EncodedFields.Statement .clrstat := fields_of_append _ _
theorem EncodedFields.sreset : EncodedFields.Statement .sreset := fields_of_append _ _

end Sys2Proof.Laws
end

