-- ==== Sys2Proof/Tests/Slice0.lean ====
section
/-! SUPPORT. Tests. Expected results are the vectors of `95_test_vectors.md` (named in each comment) or hand calculation from
the cited rule. -/

namespace Sys2Proof.Tests

open Sys2Proof.Machine

-- The kernel evaluations below run one after another, not each in a thread of its own.
set_option Elab.async false

/-- The state after a step that goes on. -/
def after (s : State) : Option State :=
  match step s with
  | .next t => some t
  | _ => none

/-- A state with the given block and one presented word, ahead of a pending `EVAL`, under the default configuration. -/
def withWord (b : Block) (w : CmdWord) : State :=
  { cfg := Config.default, block := b, host := { pending := [⟨w, true⟩], responses := [] } }

/-- The block right after reset, with the default configuration. -/
def fresh : Block := Block.reset Config.default

/-- The last response given. -/
def lastResponse (s : State) : Option Response := s.host.responses.head?

/-- A configuration with small buffers (V-FD-5, section 2.6). -/
def small : Config := { Config.default with cap := 4, c := 3 }

/-- A Sample known by its window start. -/
def sampleAt (ws : Word) : Sample := { emptySample with ws := ws }

/-! ## Well-formedness: one ill-formed term per check (R84 items 4 and 5, R10) -/

theorem smoke_setnow_max : (Instr.setnow 0xFFFFFFFFFFFFFFFF#64).wf = false := by decide
theorem smoke_rdreg_15 : (Instr.rdreg 15#8).wf = false := by decide
theorem smoke_wf_boundary :
    (Instr.setnow 0xFFFFFFFFFFFFFFFE#64).wf = true ∧ (Instr.rdreg 14#8).wf = true := by decide
theorem smoke_config_default : Config.default.wf = true := by decide +kernel
theorem smoke_config_cap : { Config.default with cap := 1 }.wf = false := by decide
theorem smoke_config_cap_high : { Config.default with cap := 65536 }.wf = false := by decide
theorem smoke_config_fieldCap : { Config.default with fieldCap := 17 }.wf = false := by decide
theorem smoke_config_c : { Config.default with c := 0 }.wf = false := by decide
theorem smoke_config_w : { Config.default with w := 4294967296 }.wf = false := by decide
theorem smoke_config_tag_paren : { Config.default with tagTable := [([0x28#8], 1#4)] }.wf = false := by decide
theorem smoke_config_tag_empty : { Config.default with tagTable := [([], 1#4)] }.wf = false := by decide
theorem smoke_config_tag_id : { Config.default with tagTable := [([0x31#8], 15#4)] }.wf = false := by decide

/-! ## Decoding: words of section 2.7 and of the examples in `45_control.md`, written out from R82 -/

theorem decode_nop : decode 0x000000000000000000#72 = .command .nop := by decide
theorem decode_feed : decode 0x01000000000000002F#72 = .command (.feed 0x2F#8) := by decide
theorem decode_setnow : decode 0x02000000006553F17B#72 = .command (.setnow 1700000123#64) := by decide
theorem decode_pop : decode 0x030000000000000000#72 = .command .pop := by decide
theorem decode_rdreg : decode 0x04000000000000000E#72 = .command (.rdreg 14#8) := by decide
theorem decode_clrstat : decode 0x050000000000000000#72 = .command .clrstat := by decide
theorem decode_sreset : decode 0x060000000000000000#72 = .command .sreset := by decide
theorem decode_reserved : decode 0x070000000000000000#72 = .illegal .reservedOpcode := by decide
theorem decode_nop_arg : decode 0x000000000000000001#72 = .illegal .mustBeZero := by decide
theorem decode_feed_mbz : decode 0x01000000000000012F#72 = .illegal .mustBeZero := by decide
theorem decode_setnow_max : decode 0x02FFFFFFFFFFFFFFFF#72 = .illegal .reservedTime := by decide
theorem decode_rdreg_15 : decode 0x04000000000000000F#72 = .illegal .reservedIndex := by decide
theorem decode_table_feed : decodeTableWord 72 0x01000000000000002F = some (.feed 0x2F#8) := by decide

/-! ## Checksum Engine (V-CRC) -/

theorem crc_zero : crc16 [0x00#8] = 0x0000#16 := by decide
theorem crc_slash : crc16 [0x2F#8] = 0xDC41#16 := by decide
theorem crc_bang : crc16 [0x21#8] = 0x18C0#16 := by decide
theorem crc_shortest : crc16 [0x2F#8, 0x21#8] = 0x28DC#16 := by decide +kernel
theorem crc_ff : crc16 [0xFF#8] = 0x4040#16 := by decide
theorem crc_check_value :
    crc16 (asciiBytes ['1', '2', '3', '4', '5', '6', '7', '8', '9']) = 0xBB3D#16 := by decide +kernel

/-! ## `hexval` (V-HEX) -/

theorem hexval_upper : hexval (asciiBytes ['2', '8', 'D', 'C']) = 0x28DC#16 := by decide
theorem hexval_lower : hexval (asciiBytes ['2', '8', 'd', 'c']) = 0x28DC#16 := by decide
theorem hexval_prefix : hexval (asciiBytes ['1', '2', 'G', '4']) = 0x0012#16 := by decide
theorem hexval_no_prefix_0x : hexval (asciiBytes ['0', 'x', '1', 'F']) = 0x0000#16 := by decide
theorem hexval_empty : hexval [] = 0x0000#16 := by decide

/-! ## The parser (V-PA, R170's table) -/

/-- `1-0:1.8.1(001000.500*kWh)` CR, V-PA-1. -/
theorem match_grammar_a :
    matchLine (asciiBytes ['1', '.', '8', '(', '0', '1', '0', '.', '5', '*', 'k', ')', Char.ofNat 13]) =
      some ⟨.a, asciiBytes ['1', '.', '8'], asciiBytes ['0', '1', '0', '.', '5']⟩ := by decide +kernel
/-- V-PA-11. -/
theorem match_grammar_b :
    matchLine (asciiBytes ['x', '(', '1', ')', '(', '2', '*', 'y', ')']) =
      some ⟨.b, asciiBytes ['x'], asciiBytes ['2']⟩ := by decide +kernel
/-- V-PA-7. -/
theorem match_empty_tag : matchLine (asciiBytes ['(', '1', '.', '0', '*', 'k', ')']) = none := by decide +kernel
/-- V-PA-8. -/
theorem match_empty_run : matchLine (asciiBytes ['a', '(', '*', 'k', ')']) = none := by decide +kernel
/-- V-PA-9. -/
theorem match_other_run : matchLine (asciiBytes ['a', '(', '1', '2', 'a', '*', 'k', ')']) = none := by decide +kernel
/-- V-PA-13. -/
theorem match_gas_without_unit :
    matchLine (asciiBytes ['g', '(', '1', 'W', ')', '(', '1', '2', '.', '3', ')']) = none := by decide +kernel
theorem numval_fraction : numval (asciiBytes ['2', '3', '0', '.', '1']) = 230100#64 := by decide
theorem numval_two_points : numval (asciiBytes ['1', '.', '2', '.', '3']) = 1200#64 := by decide
theorem numval_trailing_point : numval (asciiBytes ['5', '.']) = 5000#64 := by decide
theorem numval_leading_point : numval (asciiBytes ['.', '5']) = 500#64 := by decide
theorem numval_points : numval (asciiBytes ['.', '.', '5']) = 0#64 := by decide
theorem numval_truncates : numval (asciiBytes ['0', '.', '0', '0', '0', '9']) = 0#64 := by decide
theorem lookup_gas :
    Config.default.lookup (asciiBytes ['0', '-', '1', ':', '2', '4', '.', '2', '.', '1']) = 5#4 := by decide +kernel
/-- V-PA-12: a trailing space makes another tag. -/
theorem lookup_exact :
    Config.default.lookup (asciiBytes ['1', '-', '0', ':', '1', '.', '7', '.', '0', ' ']) = 0#4 := by decide +kernel
theorem split_pieces : splitLF [0x41#8, 0x0A#8, 0x0A#8] = [[0x41#8], [], []] := by decide

/-! ## The ring (V-RB, `C = 3`) -/

/-- Three pushes into an empty ring of three slots (V-RB-3). -/
def fullRing : Block :=
  (((Block.reset small).push small (sampleAt 1#64)).push small (sampleAt 2#64)).push small (sampleAt 3#64)

theorem ring_full : fullRing.rd = 0#8 ∧ fullRing.wr = 0#8 ∧ fullRing.rbCount small = 3 := by decide +kernel
/-- V-RB-4. -/
theorem ring_evicts :
    let b := fullRing.push small (sampleAt 4#64)
    b.rd = 1#8 ∧ b.wr = 1#8 ∧ b.rbCount small = 3 ∧ b.count .evict = 1#32 ∧ b.count .samplePushed = 4#32 ∧
      b.ringList small = [sampleAt 2#64, sampleAt 3#64, sampleAt 4#64] := by decide +kernel

/-! ## The commands (V-CMD, V-FD), one step each -/

/-- V-CMD-1. -/
theorem step_nop :
    (after (withWord fresh 0x000000000000000000#72)).map lastResponse = some (some ⟨.ok, .none⟩) := by decide +kernel
/-- V-CMD-2. -/
theorem step_nop_illegal :
    (after (withWord fresh 0x000000000000000001#72)).map (fun t => (lastResponse t, t.block.count .illegal)) =
      some (some ⟨.illegal, .none⟩, 1#32) := by decide +kernel
/-- V-FD-2. -/
theorem step_feed_start :
    (after (withWord fresh 0x01000000000000002F#72)).map (fun t => (t.block.fsm, t.block.cap)) =
      some (.capturing, [0x2F#8]) := by decide +kernel
/-- V-FD-6: with `CAP = 4`, the byte that overflows the buffer is discarded, even if it is `/`. -/
theorem feed_overflow :
    let b := ({ Block.reset small with fsm := .capturing, cap := asciiBytes ['/', 'a', 'b', 'c'] } : Block).feedByte small chSlash
    b.fsm = .idle ∧ b.cap = [] ∧ b.count .capDrop = 1#32 := by decide +kernel
/-- V-CMD-5. -/
theorem step_setnow :
    (after (withWord fresh 0x02FFFFFFFFFFFFFFFE#72)).map (·.block.now) = some 0xFFFFFFFFFFFFFFFE#64 := by decide +kernel
/-- V-CMD-4. -/
theorem step_setnow_illegal :
    (after (withWord fresh 0x02FFFFFFFFFFFFFFFF#72)).map (fun t => (t.block.now, t.block.count .illegal)) =
      some (0#64, 1#32) := by decide +kernel
/-- V-CMD-6. -/
theorem step_pop_empty :
    (after (withWord fresh 0x030000000000000000#72)).map lastResponse = some (some ⟨.empty, .none⟩) := by decide +kernel
/-- V-RB-5 to V-RB-7, on a full ring: the oldest leaves, and the cursor advances. -/
theorem pop_full_ring :
    let t := popSample { cfg := small, block := fullRing, host := { pending := [], responses := [] } }
    t.block.rd = 1#8 ∧ t.block.rbCount small = 2 ∧
      lastResponse t = some ⟨.sample, .record (sampleAt 1#64).record⟩ := by decide +kernel
/-- V-CMD-7. -/
theorem step_rdreg_params :
    (after (withWord fresh 0x040000000000000000#72)).map lastResponse =
      some (some ⟨.ok, .word 0x0000012C0A100800#64⟩) := by decide +kernel
/-- V-CMD-8. -/
theorem step_rdreg_status :
    (after (withWord fresh 0x040000000000000001#72)).map lastResponse =
      some (some ⟨.ok, .word 0x0000000800000000#64⟩) := by decide +kernel
/-- V-CMD-11. -/
theorem step_clrstat :
    (after (withWord (fresh.raise .evict) 0x050000000000000000#72)).map (·.block.count .evict) = some 0#32 := by decide +kernel
/-- V-CMD-12, while BUSY and taken before the pending `EVAL` (R332). -/
theorem step_sreset :
    (after (withWord { fresh with fsm := .ready, now := 5#64 } 0x060000000000000000#72)).map (·.block) =
      some fresh := by decide +kernel
/-- V-FD-12: a held command waits for `EVAL`, here on the frame `/!` with an empty checksum text (V-FD-11). -/
theorem step_hold :
    (after (withWord { fresh with fsm := .ready, cap := [0x2F#8, 0x21#8] } 0x000000000000000000#72)).map
        (fun t => (t.block.fsm, t.host.pending.length, t.block.count .crcFail, t.block.lastCrc)) =
      some (.idle, 1, 1#32, ⟨0x28DC#16, 0x0000#16, true⟩) := by decide +kernel

/-! ## `EVAL`: the two telegrams of P1, as they stand in the buffer, and the field error of P5 -/

/-- P1's second telegram, its lines `P_CONS` 00.500 and `V_L1` 229.0. -/
def telegramT2 : List Byte :=
  asciiBytes ['/', 'T', 'S', 'T', '5'] ++ [0x0D#8, 0x0A#8, 0x0D#8, 0x0A#8] ++
  asciiBytes ['1', '-', '0', ':', '1', '.', '7', '.', '0', '(', '0', '0', '.', '5', '0', '0', '*', 'k', 'W', ')'] ++
  [0x0D#8, 0x0A#8] ++
  asciiBytes ['1', '-', '0', ':', '3', '2', '.', '7', '.', '0', '(', '2', '2', '9', '.', '0', '*', 'V', ')'] ++
  [0x0D#8, 0x0A#8, 0x21#8]

/-- P1 just before the second telegram's `EVAL`: the window of bucket 5666667 holds one telegram with power 350. -/
def beforeT2 : Block :=
  { fresh with
    fsm := .ready, cap := telegramT2, ck := asciiBytes ['2', '5', 'F', '0'], now := 1700000423#64
    winActive := true, winBucket := 5666667#64
    acc := { freshAcc with n := 1#32, m := freshAcc.m.set 0 ⟨350#64, 350#128, 350#64⟩ } }

theorem eval_t2_counters :
    let b := beforeT2.eval Config.default
    b.fsm = .idle ∧ b.count .frameOk = 1#32 ∧ b.count .samplePushed = 1#32 ∧
      b.lastCrc = ⟨0x25F0#16, 0x25F0#16, true⟩ := by decide +kernel
theorem eval_t2_sample :
    let s := (beforeT2.eval Config.default).slot 0#8
    s.ws = 1700000100#64 ∧ s.n = 1#32 ∧ s.m[0] = ⟨350#64, 350#64, 350#64⟩ := by decide +kernel
theorem eval_t2_window :
    let b := beforeT2.eval Config.default
    b.winBucket = 5666668#64 ∧ b.acc.n = 1#32 ∧ b.acc.m[0] = ⟨500#64, 500#128, 500#64⟩ ∧
      b.acc.m[2] = ⟨229000#64, 229000#128, 229000#64⟩ := by decide +kernel

/-- A line with a numeric capture of 17 characters, longer than `FIELD_CAP` (V-PA-15, P5). -/
def longLine : List Byte :=
  asciiBytes ['a', '('] ++ List.replicate 17 0x31#8 ++ asciiBytes ['*', 'k', ')']

theorem field_error_halts :
    let b := fresh.parseLines Config.default [longLine, [0x21#8]]
    b.halted = true ∧ b.acc.n = 0#32 ∧ b.count .fieldErr = 1#32 := by decide +kernel
theorem field_error_not_fatal :
    let b := fresh.parseLines { Config.default with fatal := false } [longLine, [0x21#8]]
    b.halted = false ∧ b.acc.n = 0#32 ∧ b.count .fieldErr = 1#32 := by decide +kernel

/-! ## The assembler (R94, R95) -/

theorem asm_feed_char :
    assembleLine ['F', 'E', 'E', 'D', ' ', Char.ofNat 39, '/', Char.ofNat 39, ' ', ';', 'x'] = some [.feed 0x2F#8] := by
  decide +kernel
/-- The number of V-WIN-4, with digit separators (log 14), and separators that stand wrongly. -/
theorem asm_separators :
    parseNumber ['0', 'x', 'F', 'F', '_', 'F', 'E'] = some 65534 ∧ parseNumber ['1', '_', '0'] = some 10 ∧
      parseNumber ['0', 'x', '_', '1'] = none ∧ parseNumber ['1', '_'] = none ∧
      parseNumber ['1', '_', '_', '0'] = none ∧ parseNumber ['_'] = none ∧ parseNumber ['0', 'x'] = none ∧
      parseNumber ['7'] = some 7 := by decide +kernel
/-- A quoted single quote with a comment after it (log 14). -/
theorem asm_feed_quote :
    assembleLine
        ['F', 'E', 'E', 'D', ' ', Char.ofNat 39, Char.ofNat 39, Char.ofNat 39, ' ', ';', 'x'] = some [.feed 0x27#8] := by
  decide +kernel
theorem asm_rdreg_name :
    assembleLine ['R', 'D', 'R', 'E', 'G', ' ', 'S', 'T', 'A', 'T', 'U', 'S'] = some [.rdreg 1#8] := by decide +kernel
theorem asm_out_of_range : assembleLine ['F', 'E', 'E', 'D', ' ', '2', '5', '6'] = none := by decide +kernel
/-- `TELEGRAM "/!"` (R118, R95). -/
theorem asm_telegram :
    assembleLine ['T', 'E', 'L', 'E', 'G', 'R', 'A', 'M', ' ', Char.ofNat 34, '/', '!', Char.ofNat 34] =
      some (feedsOf (asciiBytes ['/', '!', '2', '8', 'D', 'C'] ++ [0x0D#8, 0x0A#8])) := by decide +kernel
theorem asm_feeds_escape :
    assembleLine ['F', 'E', 'E', 'D', 'S', ' ', Char.ofNat 34, Char.ofNat 92, 'x', '4', '1', Char.ofNat 92, 'n', Char.ofNat 34] =
      some [.feed 0x41#8, .feed 0x0A#8] := by decide +kernel

/-! ## Witnesses: for each statement with hypotheses, concrete values that meet them all, clause by clause, at the boundaries -/

/-- A state with the given configuration and block, and an idle Host. -/
def stateOf (cfg : Config) (b : Block) : State :=
  { cfg := cfg, block := b, host := { pending := [], responses := [] } }

/-- A block in Ready on the frame `/!` with the given checksum text. -/
def readyBlock (ck : List Byte) : Block := { fresh with fsm := .ready, cap := [0x2F#8, 0x21#8], ck := ck }

/-- A step that goes on to a state with the property `P`. -/
theorem exists_step {s : State} {P : State → Bool} (h : (after s).any P = true) : ∃ t, step s = .next t ∧ P t = true := by
  unfold after at h
  cases hs : step s with
  | next t => exact ⟨t, rfl, by simpa [hs] using h⟩
  | fault r => simp [hs] at h
  | refused r => simp [hs] at h

/-- `NopRespondsOk`, `ClrstatZeroesCounters`: accepted, and held. -/
theorem witness_accepted_and_held : fresh.fsm ≠ .ready ∧ (readyBlock []).fsm = .ready := by decide
theorem witness_SetnowWritesNow :
    (fresh.fsm ≠ .ready ∧ (0xFFFFFFFFFFFFFFFE#64 : Word) ≠ 0xFFFFFFFFFFFFFFFF#64) ∧
    (fresh.fsm ≠ .ready ∧ (0xFFFFFFFFFFFFFFFF#64 : Word) = 0xFFFFFFFFFFFFFFFF#64) ∧
    (readyBlock []).fsm = .ready := by decide
theorem witness_RdregAnswersRegister : (14#8).toNat < 15 ∧ 15 ≤ (15#8).toNat := by decide
/-- Accepted on an occupied slot, and on an empty one. -/
theorem witness_PopDeliversOldest :
    (fullRing.fsm ≠ .ready ∧ (fullRing.slots.getD fullRing.rd.toNat emptySample).ws ≠ 0xFFFFFFFFFFFFFFFF#64) ∧
    (fresh.fsm ≠ .ready ∧ (fresh.slots.getD fresh.rd.toNat emptySample).ws = 0xFFFFFFFFFFFFFFFF#64) := by decide +kernel
theorem witness_FeedRefusedWhileHalted :
    let b : Block := { fresh with halted := true }
    b.fsm ≠ .ready ∧ b.halted = true := by decide
theorem witness_FeedInIdle : fresh.fsm = .idle ∧ fresh.halted = false ∧ (0x2E#8 : Byte) ≠ 0x2F#8 := by decide
/-- A full buffer of `CAP = 4` bytes, and one of 3 bytes, with `!` and with another byte. -/
theorem witness_FeedWhileCapturing :
    let full : Block := { Block.reset small with fsm := .capturing, cap := asciiBytes ['/', 'a', 'b', 'c'] }
    let room : Block := { Block.reset small with fsm := .capturing, cap := asciiBytes ['/', 'a', 'b'] }
    (full.fsm = .capturing ∧ full.halted = false ∧ full.cap.length = small.cap) ∧
    (room.fsm = .capturing ∧ room.halted = false ∧ room.cap.length ≠ small.cap ∧ (0x20#8 : Byte) ≠ 0x21#8) := by
  decide +kernel
/-- No checksum byte stored yet, and three. -/
theorem witness_FeedChecksumText :
    let none : Block := { fresh with fsm := .readingChecksum, cap := [0x2F#8, 0x21#8] }
    let three : Block := { none with ck := asciiBytes ['2', '8', 'D'] }
    (none.fsm = .readingChecksum ∧ none.halted = false ∧ none.ck.length ≤ 3) ∧
    (three.fsm = .readingChecksum ∧ three.halted = false ∧ three.ck.length ≤ 3 ∧ three.ck.length = 3) ∧
    (0x43#8 : Byte) ≠ 0x0D#8 ∧ (0x43#8 : Byte) ≠ 0x0A#8 := by decide +kernel
/-- `ParamsRegister`, `PowerOnHasInvariant`: accepted configurations, with `C` and `CAP` at both ends of their ranges. -/
theorem witness_config :
    Config.default.wf = true ∧ small.wf = true ∧ { small with cap := 2, c := 1 }.wf = true ∧
      { small with cap := 65535, c := 255, fieldCap := 16, w := 4294967295 }.wf = true := by decide +kernel
theorem witness_LevelOutputs : (stateOf Config.default fresh).block.fsm ≠ .ready := by decide
theorem witness_DecodeInvertsEncode :
    (Instr.setnow 0xFFFFFFFFFFFFFFFE#64).wf = true ∧ (Instr.rdreg 14#8).wf = true ∧ (Instr.feed 0xFF#8).wf = true := by
  decide
theorem witness_EncodeInvertsDecode : decode 0x02FFFFFFFFFFFFFFFE#72 = .command (.setnow 0xFFFFFFFFFFFFFFFE#64) := by decide
/-- Not BUSY with `NOP`; BUSY with `RDREG` and with `SRESET`, ahead of `EVAL`. -/
theorem witness_StepRunsDecodedCommand :
    let idle := withWord fresh 0x000000000000000000#72
    let busy := withWord (readyBlock []) 0x04000000000000000E#72
    (idle.cfg.wf = true ∧ idle.host.pending = [⟨0x000000000000000000#72, true⟩] ∧ idle.block.fsm ≠ .ready ∧
      decode 0x000000000000000000#72 = .command .nop) ∧
    (busy.cfg.wf = true ∧ busy.host.pending = [⟨0x04000000000000000E#72, true⟩] ∧ busy.block.fsm = .ready ∧
      decode 0x04000000000000000E#72 = .command (.rdreg 14#8) ∧
      (0x04000000000000000E#72 : CmdWord).extractLsb' 64 8 = 4#8) ∧
    decode 0x060000000000000000#72 = .command .sreset ∧
      (0x060000000000000000#72 : CmdWord).extractLsb' 64 8 = 6#8 := by decide +kernel
/-- Not BUSY with the first reserved opcode; BUSY with a reserved index and with a `SRESET` whose argument is not 0. -/
theorem witness_IllegalWordRejected :
    let idle := withWord fresh 0x070000000000000000#72
    let busy := withWord (readyBlock []) 0x04000000000000000F#72
    (idle.cfg.wf = true ∧ idle.block.fsm ≠ .ready ∧ decode 0x070000000000000000#72 = .illegal .reservedOpcode) ∧
    (busy.cfg.wf = true ∧ busy.block.fsm = .ready ∧ decode 0x04000000000000000F#72 = .illegal .reservedIndex ∧
      (0x04000000000000000F#72 : CmdWord).extractLsb' 64 8 = 4#8) ∧
    decode 0x060000000000000001#72 = .illegal .mustBeZero ∧
      (0x060000000000000001#72 : CmdWord).extractLsb' 64 8 = 6#8 := by decide +kernel
/-- A `NOP`, and a word with a reserved opcode. -/
theorem witness_HeldWhileBusy :
    let s := withWord (readyBlock []) 0x000000000000000000#72
    (s.cfg.wf = true ∧ s.block.fsm = .ready ∧ s.host.pending = [⟨0x000000000000000000#72, true⟩] ∧
      (0x000000000000000000#72 : CmdWord).extractLsb' 64 8 ≠ 4#8 ∧
      (0x000000000000000000#72 : CmdWord).extractLsb' 64 8 ≠ 6#8 ∧
      decode 0x000000000000000000#72 = .command .nop) ∧
    (0x070000000000000000#72 : CmdWord).extractLsb' 64 8 ≠ 4#8 ∧
      (0x070000000000000000#72 : CmdWord).extractLsb' 64 8 ≠ 6#8 := by decide +kernel
theorem witness_BothOrdersAdmitted :
    let s := stateOf Config.default (readyBlock [])
    s.cfg.wf = true ∧ s.block.fsm = .ready ∧ decode 0x060000000000000000#72 = .command .sreset ∧
      decode 0x040000000000000000#72 = .command (.rdreg 0#8) := by decide +kernel
theorem witness_OneResponsePerCommand :
    ∃ t, step (withWord fresh 0x000000000000000000#72) = .next t ∧ decide (t.host.pending = []) = true :=
  exists_step (by decide +kernel)
/-- A refused configuration at the lower end of `CAP`, and one that meets every constraint of R10. -/
theorem witness_EveryStepGoesOn :
    ¬ (2 ≤ (stateOf { small with cap := 1 } fresh).cfg.cap) ∧
    let cfg := (stateOf small fresh).cfg
    2 ≤ cfg.cap ∧ cfg.cap ≤ 65535 ∧ 1 ≤ cfg.fieldCap ∧ cfg.fieldCap ≤ 16 ∧ 1 ≤ cfg.c ∧ cfg.c ≤ 255 ∧
      1 ≤ cfg.w ∧ cfg.w ≤ 2 ^ 32 - 1 ∧
      ∀ e ∈ cfg.tagTable, e.1 ≠ [] ∧ 0x28#8 ∉ e.1 ∧ 0x0A#8 ∉ e.1 ∧ 1 ≤ e.2.toNat ∧ e.2.toNat ≤ 14 := by
  decide +kernel
/-- No command at the port: Ready, and not. -/
theorem witness_EmptyPortStep :
    let busy := stateOf small (readyBlock [])
    let idle := stateOf small fresh
    (busy.cfg.wf = true ∧ busy.host.pending = [] ∧ busy.block.fsm = .ready) ∧
    (idle.cfg.wf = true ∧ idle.host.pending = [] ∧ idle.block.fsm ≠ .ready) := by decide +kernel
theorem witness_BusyEnds :
    let s := withWord (readyBlock []) 0x04000000000000000E#72
    s.cfg.wf = true ∧ s.block.fsm = .ready := by decide +kernel
theorem witness_EventMovesOneCounter : Event.illegal ≠ Event.frameOk := by decide
theorem witness_EvalDropsMismatch : crc16 (readyBlock []).cap ≠ hexval (readyBlock []).ck := by decide +kernel
theorem witness_EvalParsesMatch :
    let b := readyBlock (asciiBytes ['2', '8', 'd', 'c'])
    crc16 b.cap = hexval b.ck := by decide +kernel
theorem witness_CrcDetectsByteChange : [0x2F#8].length = [0x21#8].length ∧ (0x01#8 : Byte) ≠ 0#8 := by decide
/-- The ends of the three digit ranges, a non-digit between them, and a text of four digits. -/
theorem witness_HexvalReadsPrefix :
    (0x30 ≤ (0x30#8).toNat ∧ (0x39#8).toNat ≤ 0x39) ∧ (0x41 ≤ (0x41#8).toNat ∧ (0x46#8).toNat ≤ 0x46) ∧
    (0x61 ≤ (0x61#8).toNat ∧ (0x66#8).toNat ≤ 0x66) ∧ hexDigit 0x3A#8 = none ∧ hexDigit 0x46#8 = some 15 ∧
    (∀ y ∈ asciiBytes ['2', '8', 'd'], (hexDigit y).isSome = true) ∧
    (asciiBytes ['2', '8', 'd', 'C']).length ≤ 4 := by decide +kernel
/-- `12.5*`, and `12` with a rest that is no digit and no point. -/
theorem witness_NumvalReadsDecimal :
    (∀ x ∈ [0x31#8, 0x32#8], isDigit x = true) ∧ (∀ x ∈ [0x35#8], isDigit x = true) ∧
    (∀ x, [0x2A#8].head? = some x → isDigit x = false ∧ x ≠ 0x2E#8) := by
  refine ⟨by decide, by decide, fun x hx => ?_⟩
  cases hx
  decide
theorem witness_NumvalFits : small.wf = true ∧ (List.replicate 16 0x39#8).length ≤ small.fieldCap := by decide +kernel
theorem witness_UpdateRules :
    (1#4).toNat = (0 : Fin 5).val + 1 ∧ (5#4).toNat = (4 : Fin 5).val + 1 ∧ (6#4).toNat = (0 : Fin 8).val + 6 ∧
      (13#4).toNat = (7 : Fin 8).val + 6 ∧ (1 : Fin 8) ≠ 0 := by decide
/-- A table with an entry before the one looked up, a tag outside it, the gas tag in Grammar B, and another tag there. -/
theorem witness_DispatchByTag :
    let cfg : Config := { small with tagTable := [([0x61#8], 1#4), ([0x67#8], 5#4)] }
    cfg.tagTable = [([0x61#8], 1#4)] ++ ([0x67#8], 5#4) :: [] ∧ (∀ e ∈ [([0x61#8], 1#4)] ++ [], e.1 ≠ [0x67#8]) ∧
    (∀ e ∈ cfg.tagTable, e.1 ≠ [0x62#8]) ∧ cfg.lookup [0x67#8] = 5#4 ∧ cfg.lookup [0x61#8] ≠ 5#4 := by decide
/-- Skipped lines; a stop line; an unmatched line; captures of 16 and 17 bytes. -/
theorem witness_ParseLoop :
    [0x2F#8].head? = some 0x2F#8 ∧ ([0x1F#8].head? = some 0x1F#8 ∧ (0x1F#8).toNat < 0x20) ∧
    [0x21#8].head? = some 0x21#8 ∧
    ([0x20#8].head? = some 0x20#8 ∧ 0x20 ≤ (0x20#8).toNat ∧ (0x20#8 : Byte) ≠ 0x2F#8 ∧ (0x20#8 : Byte) ≠ 0x21#8 ∧
      matchLine [0x20#8] = none) ∧
    (longLine.head? = some 0x61#8 ∧ matchLine longLine = some ⟨.a, [0x61#8], List.replicate 17 0x31#8⟩ ∧
      Config.default.fieldCap < (List.replicate 17 0x31#8).length) ∧
    (matchLine ([0x61#8, 0x28#8] ++ List.replicate 16 0x31#8 ++ [0x2A#8]) =
        some ⟨.a, [0x61#8], List.replicate 16 0x31#8⟩ ∧
      (List.replicate 16 0x31#8).length ≤ Config.default.fieldCap) := by decide +kernel
theorem witness_MinimumCorners :
    freshAcc.n = 0#32 ∧ ({ freshAcc with n := 1#32 } : Acc).n ≠ 0#32 ∧
      (({ freshAcc with n := 1#32 } : Acc).m[0]).min = 0#64 := by decide
/-- No window; the window of bucket 1 (`W = 300`) at its last second, 599, and one second later. -/
theorem witness_WindowSelection :
    let b : Block := { fresh with winActive := true, winBucket := 1#64 }
    fresh.winActive = false ∧ b.winActive = true ∧
      BitVec.ofNat 64 ((599#64).toNat / Config.default.w) = b.winBucket ∧
      BitVec.ofNat 64 ((600#64).toNat / Config.default.w) ≠ b.winBucket := by decide
/-- An empty window, and one with a telegram in the last bucket. -/
theorem witness_FinalizeBuildsSample :
    let b : Block := { fresh with acc := { freshAcc with n := 1#32 }, winBucket := 0xDA740DA740DA74#64 }
    fresh.acc.n = 0#32 ∧ b.acc.n ≠ 0#32 ∧ b.winBucket.toNat * Config.default.w ≤ 2 ^ 64 - 2 := by decide
/-- A full ring, and an empty one whose cursors also meet. -/
theorem witness_PushStoresSample :
    (fullRing.wr = fullRing.rd ∧ (fullRing.slots.getD fullRing.rd.toNat emptySample).ws ≠ 0xFFFFFFFFFFFFFFFF#64) ∧
    (fresh.slots.getD fresh.rd.toNat emptySample).ws = 0xFFFFFFFFFFFFFFFF#64 := by decide +kernel

/-- The full ring of three slots is in good order: `FillCountRange`, `RingIsBoundedQueue` with an occupied `rd`. -/
theorem witness_full_ring : small.wf = true ∧ fullRing.RingInv small ∧ fullRing.occupied fullRing.rd = true :=
  ⟨by decide +kernel, ⟨by decide +kernel, by decide +kernel, by decide +kernel, by decide +kernel, by decide +kernel⟩,
    by decide +kernel⟩

/-- An empty ring of three slots whose cursors stand at the last slot. -/
def emptyRing : Block := { Block.reset small with rd := 2#8, wr := 2#8 }

/-- `RingIsBoundedQueue` with an empty `rd`; `OverwriteLaw` with four Samples into three slots. -/
theorem witness_empty_ring :
    small.wf = true ∧ emptyRing.RingInv small ∧ emptyRing.occupied emptyRing.rd = false ∧ emptyRing.rbCount small = 0 ∧
      (∀ s ∈ [sampleAt 1#64, sampleAt 2#64, sampleAt 3#64, sampleAt 4#64], s.ws ≠ 0xFFFFFFFFFFFFFFFF#64) :=
  ⟨by decide +kernel, ⟨by decide +kernel, by decide +kernel, by decide +kernel, by decide +kernel, by decide +kernel⟩,
    by decide +kernel, by decide +kernel, by decide +kernel⟩

/-- A state of a small machine with the presentations of some bytes. -/
def feeding (bytes : List Byte) : State :=
  { cfg := small
    block := Block.reset small
    host := { pending := bytes.map fun x => ⟨encode (.feed x), false⟩, responses := [] } }

/-- The frame `/ab!`, as long as the buffer, with its checksum text. -/
theorem witness_FrameRoundTrip :
    let bytes := asciiBytes ['/', 'a', 'b', '!'] ++ hex4 (crc16 (asciiBytes ['/', 'a', 'b', '!'])) ++ [0x0D#8, 0x0A#8]
    let s := feeding bytes
    s.cfg.wf = true ∧ s.block.fsm = .idle ∧ s.block.halted = false ∧ 0x21#8 ∉ asciiBytes ['a', 'b'] ∧
      (asciiBytes ['/', 'a', 'b', '!']).length ≤ s.cfg.cap ∧ presentsBytes s.host.pending bytes ∧
      s.host.pending = s.host.pending ++ [] := by
  refine ⟨by decide +kernel, by decide, by decide, by decide, by decide, ?_, by simp⟩
  unfold presentsBytes
  decide +kernel

/-- `/ab!` sent as `/cb!` with the checksum text of `/ab!`. -/
theorem witness_CorruptedFrameDropped :
    let bytes := asciiBytes ['/', 'c', 'b', '!'] ++ hex4 (crc16 (asciiBytes ['/', 'a', 'b', '!'])) ++ [0x0D#8, 0x0A#8]
    let s := feeding bytes
    s.cfg.wf = true ∧ s.block.fsm = .idle ∧ s.block.halted = false ∧ 0x21#8 ∉ asciiBytes ['b'] ∧
      asciiByte 'a' ≠ 0x21#8 ∧ asciiByte 'c' ≠ 0x21#8 ∧ asciiByte 'c' ≠ asciiByte 'a' ∧
      (asciiBytes ['/', 'a', 'b', '!']).length ≤ s.cfg.cap ∧ presentsBytes s.host.pending bytes ∧
      s.host.pending = s.host.pending ++ [] := by
  refine ⟨by decide +kernel, by decide, by decide, by decide, by decide, by decide, by decide, by decide, ?_, by simp⟩
  unfold presentsBytes
  decide +kernel

theorem witness_OverlongFrameDropped :
    small.wf = true ∧ (Block.reset small).fsm = .idle ∧ (asciiBytes ['a', 'b', 'c']).length + 1 = small.cap ∧
      0x21#8 ∉ asciiBytes ['a', 'b', 'c'] := by decide +kernel

/-- A configuration whose tag `a` is the first metric. -/
def smallTags : Config := { small with tagTable := [([0x61#8], 6#4)] }

/-- One telegram, `/`, LF, `a(5*`, LF, `!`, in the active window of bucket 0. -/
theorem witness_WindowRolloverLaw :
    let b : Block := { Block.reset smallTags with winActive := true }
    let tels : List (List Byte × Word) := [([0x2F#8, 0x0A#8, 0x61#8, 0x28#8, 0x35#8, 0x2A#8, 0x0A#8, 0x21#8], 299#64)]
    smallTags.wf = true ∧ b.winActive = true ∧ b.acc = freshAcc ∧
      (∀ tel ∈ tels, bucketOf smallTags tel.2 = b.winBucket) ∧
      List.Forall₂ (fun tel v => carriesOnce smallTags 0 tel.1 v) tels [5000#64] ∧ tels ≠ [] ∧ tels.length < 2 ^ 32 :=
  ⟨by decide +kernel, by decide, by decide, by decide,
    .cons ⟨[(.aggregate 0, 5000#64)], by decide +kernel, by decide⟩ .nil, by decide, by decide⟩

theorem witness_HaltIsSticky :
    let s := withWord { fresh with halted := true } 0x060000000000000000#72
    s.block.halted = true ∧ ∃ t, step s = .next t ∧ (!t.block.halted) = true :=
  ⟨by decide, exists_step (by decide +kernel)⟩

/-- A captured frame with a numeric capture that is too long, and its right checksum text. -/
def fatalFrame : List Byte := [0x2F#8, 0x0A#8] ++ longLine ++ [0x0A#8, 0x21#8]

theorem witness_HaltEntry :
    let s := stateOf Config.default { fresh with fsm := .ready, cap := fatalFrame, ck := hex4 (crc16 fatalFrame) }
    s.block.halted = false ∧ ∃ t, step s = .next t ∧ t.block.halted = true :=
  ⟨by decide, exists_step (P := fun t => t.block.halted) (by decide +kernel)⟩

/-- A state with the invariant that is not a reset state: a full ring, a capture under way, an active window, a command. -/
def workingState : State :=
  { cfg := small
    block :=
      { fullRing with
        fsm := .capturing, cap := [0x2F#8, 0x61#8], winActive := true, winBucket := 5#64, now := 1700#64
        acc := { freshAcc with n := 1#32 } }
    host := { pending := [⟨encode (.feed 0x21#8), false⟩], responses := [] } }

theorem witness_StepKeepsInvariant : workingState.Inv ∧ ∃ t, step workingState = .next t ∧ decide (t.block.fsm = .readingChecksum) = true := by
  refine ⟨⟨by decide +kernel, ⟨⟨by decide +kernel, by decide +kernel, by decide, ?_, fun h => ?_, by decide⟩,
    ⟨by decide, by decide, by decide⟩,
    ⟨by decide +kernel, by decide +kernel, by decide +kernel, by decide +kernel, by decide +kernel⟩⟩⟩,
    exists_step (P := fun t => decide (t.block.fsm = .readingChecksum)) (by decide +kernel)⟩
  · exact fun _ => ⟨[0x61#8], rfl, by decide⟩
  · exact absurd h (by decide)

theorem witness_AssemblerNeverIllegal :
    assembleLine ['P', 'O', 'P'] = some [.pop] ∧ assemble [['P', 'O', 'P'], []] = some [0x030000000000000000#72] := by
  decide +kernel

end Sys2Proof.Tests
end

/-! PROOFS. The scope of the model: which configurations step (R10), what a step does with an empty port (R15, R318), and how
a telegram is cut into lines (R13, R161). -/

namespace Sys2Proof

/-! ### The constraints of R10 -/

/-- `tagEntryLegal` is the constraint of R10 on a `TAG_TABLE` entry. -/
theorem tagEntryLegal_iff (e : List Byte × BitVec 4) :
    tagEntryLegal e = true ↔
      e.1 ≠ [] ∧ chLParen ∉ e.1 ∧ chLF ∉ e.1 ∧ 1 ≤ e.2.toNat ∧ e.2.toNat ≤ 14 := by
  have hid : (e.2 ≠ 0#4 ∧ e.2 ≠ 15#4) ↔ (1 ≤ e.2.toNat ∧ e.2.toNat ≤ 14) := by bv_omega
  simp [tagEntryLegal, and_assoc, ← hid]

/-- `Config.wf` is the constraints of R10. -/
theorem Config.wf_iff (cfg : Config) :
    cfg.wf = true ↔
      2 ≤ cfg.cap ∧ cfg.cap ≤ 65535 ∧ 1 ≤ cfg.fieldCap ∧ cfg.fieldCap ≤ 16 ∧ 1 ≤ cfg.c ∧ cfg.c ≤ 255 ∧
        1 ≤ cfg.w ∧ cfg.w ≤ 2 ^ 32 - 1 ∧
        ∀ e ∈ cfg.tagTable, e.1 ≠ [] ∧ chLParen ∉ e.1 ∧ chLF ∉ e.1 ∧ 1 ≤ e.2.toNat ∧ e.2.toNat ≤ 14 := by
  simp only [Config.wf, Bool.and_eq_true, decide_eq_true_eq, List.all_eq_true, tagEntryLegal_iff, and_assoc]

end Sys2Proof

namespace Sys2Proof.Machine

/-! ### The configuration stays (R36) -/

/-- A command keeps the configuration if its own effect does: holding and rejecting keep it. -/
theorem accept_cfg {op : Byte} {legal : Bool} {effect : State → State} {s : State}
    (h : (effect s).cfg = s.cfg) : (accept op legal effect s).cfg = s.cfg := by
  obtain ⟨-, heq⟩ | ⟨-, -, heq⟩ | ⟨-, -, heq⟩ := accept_cases op legal effect s <;> rw [heq]
  · exact h
  · exact s.rejectIllegal_cfg

@[simp] theorem takeByte_cfg (x : Byte) (s : State) : (takeByte x s).cfg = s.cfg := by
  unfold takeByte
  split <;> rfl

@[simp] theorem popSample_cfg (s : State) : (popSample s).cfg = s.cfg := by
  unfold popSample
  split <;> rfl

/-- Every command answers a next state with the same configuration (R36, R308). -/
theorem exec_keeps_cfg (i : Instr) (s : State) : ∃ t, exec i s = .next t ∧ t.cfg = s.cfg := by
  cases i with
  | nop => exact ⟨_, rfl, accept_cfg rfl⟩
  | feed b => exact ⟨_, rfl, accept_cfg (takeByte_cfg b s)⟩
  | setnow t => exact ⟨_, rfl, accept_cfg rfl⟩
  | pop => exact ⟨_, rfl, accept_cfg (popSample_cfg s)⟩
  | rdreg idx => exact ⟨_, rfl, accept_cfg rfl⟩
  | clrstat => exact ⟨_, rfl, accept_cfg rfl⟩
  | sreset => exact ⟨_, rfl, accept_cfg rfl⟩

/-! ### Which states step (R10, R15) -/

/-- A configuration that breaks R10 is refused (log 2). -/
theorem step_of_not_wf {s : State} (h : s.cfg.wf = false) : step s = .refused .badConfiguration := by
  simp [step, nextAction, h]

/-- Under an accepted configuration a step goes on and keeps the configuration (R36, R308). -/
theorem step_keeps_cfg {s : State} (hwf : s.cfg.wf = true) : ∃ t, step s = .next t ∧ t.cfg = s.cfg := by
  obtain ⟨hbad, -⟩ | ⟨-, -, -, hrest⟩ | ⟨-, -, heval⟩ | ⟨_, _, i, -, -, -, -, hexec⟩ | ⟨_, _, _, -, -, -, -, hillegal⟩ :=
    step_cases s
  · exact absurd (hwf.symm.trans hbad) Bool.noConfusion
  · exact ⟨s, hrest, rfl⟩
  · exact ⟨_, heval, s.evaluate_cfg⟩
  · rw [hexec]
    exact exec_keeps_cfg i s.takeCommand
  · exact ⟨_, hillegal, s.takeCommand.rejectIllegal_cfg⟩

/-- With an empty port the step is `EVAL` when the block is BUSY, and the same state otherwise (R15, R318, log 8). -/
theorem step_of_pending_nil {s : State} (hwf : s.cfg.wf = true) (hport : s.host.pending = []) :
    step s = .next (if s.block.busy then s.evaluate else s) := by
  cases hbusy : s.block.busy <;> simp [step, nextAction, hwf, hport, hbusy]

/-- Settles O25: `step` refuses by `Config.wf`, which is R10's constraints, and every other step keeps the configuration. -/
theorem everyStepGoesOn : Obligations.EveryStepGoesOn :=
  ⟨fun s hbad => step_of_not_wf (Bool.eq_false_iff.mpr fun hwf => hbad (s.cfg.wf_iff.mp hwf)),
    fun s hlegal => step_keeps_cfg (s.cfg.wf_iff.mpr hlegal)⟩

/-- Settles O60, by the two cases of BUSY with an empty port. -/
theorem emptyPortStep : Obligations.EmptyPortStep := by
  intro s hwf hport
  rw [step_of_pending_nil hwf hport]
  constructor
  · intro hready
    rw [if_pos (s.block.busy_iff.mpr hready)]
    rfl
  · intro hidle
    rw [if_neg (mt s.block.busy_iff.mp hidle)]

/-! ### The lines of a telegram (R13, R161) -/

@[simp] theorem splitLF_nil : splitLF [] = [[]] := rfl

/-- An LF ends an empty line and is dropped. -/
@[simp] theorem splitLF_cons_LF (xs : List Byte) : splitLF (chLF :: xs) = [] :: splitLF xs := rfl

/-- There is always a first line, so the model's case of no line never arises. -/
theorem splitLF_ne_nil (s : List Byte) : splitLF s ≠ [] := by
  unfold splitLF
  split
  · simp
  · split
    · simp
    · split <;> simp

/-- Any other byte joins the front of the first line. -/
theorem splitLF_cons_of_ne {x : Byte} (hx : x ≠ chLF) (xs : List Byte) :
    ∃ line lines, splitLF xs = line :: lines ∧ splitLF (x :: xs) = (x :: line) :: lines := by
  obtain ⟨line, lines, h⟩ := List.exists_cons_of_ne_nil (splitLF_ne_nil xs)
  exact ⟨line, lines, h, by rw [splitLF, if_neg hx, h]⟩

/-- `k` LF bytes give `k + 1` lines. -/
theorem length_splitLF (s : List Byte) : (splitLF s).length = s.count chLF + 1 := by
  induction s with
  | nil => rfl
  | cons x xs ih =>
    by_cases hx : x = chLF
    · rw [hx, splitLF_cons_LF, List.length_cons, ih, List.count_cons_self]
    · obtain ⟨line, lines, hxs, hcons⟩ := splitLF_cons_of_ne hx xs
      rw [hcons, List.count_cons_of_ne hx, ← ih, hxs, List.length_cons, List.length_cons]

theorem chLF_notMem_of_mem_splitLF {s l : List Byte} (hl : l ∈ splitLF s) : chLF ∉ l := by
  induction s generalizing l with
  | nil =>
    rw [splitLF_nil, List.mem_singleton] at hl
    simp [hl]
  | cons x xs ih =>
    by_cases hx : x = chLF
    · rw [hx, splitLF_cons_LF, List.mem_cons] at hl
      obtain rfl | hl := hl
      · exact List.not_mem_nil
      · exact ih hl
    · obtain ⟨line, lines, hxs, hcons⟩ := splitLF_cons_of_ne hx xs
      rw [hxs] at ih
      rw [hcons, List.mem_cons] at hl
      obtain rfl | hl := hl
      · exact List.not_mem_cons_of_ne_of_not_mem (Ne.symm hx) (ih List.mem_cons_self)
      · exact ih (List.mem_cons_of_mem _ hl)

/-- `split_LF` is the library's split at a separator. -/
theorem splitLF_eq_splitOn (s : List Byte) : splitLF s = s.splitOn chLF := by
  induction s with
  | nil => rfl
  | cons x xs ih =>
    rw [List.splitOn_cons_eq_if_modifyHead, ← ih]
    by_cases hx : x = chLF
    · simp [hx]
    · obtain ⟨line, lines, hxs, hcons⟩ := splitLF_cons_of_ne hx xs
      simp [hcons, hxs, hx]

/-- Settles O34: the count and the absence of LF by induction on the bytes, the rejoining by the library's split. -/
theorem linesSplitAtLF : Obligations.LinesSplitAtLF := fun s =>
  ⟨length_splitLF s, fun _ => chLF_notMem_of_mem_splitLF,
    by rw [splitLF_eq_splitOn]; exact List.intercalate_splitOn chLF⟩

end Sys2Proof.Machine

/-! PROOFS. The state of the block: its registers (R40 to R46), its reset values (R49, R331), the ring as a bounded queue
(R32, R33, R235), and the invariant that every step keeps. -/

namespace Sys2Proof.Machine

/-! ### The fields of a register (R40) -/

theorem getLsbD_regField {n : Nat} (low i : Nat) (v : BitVec n) (hi : i < 64) :
    (regField low v).getLsbD i = (decide (low ≤ i) && v.getLsbD (i - low)) := by
  by_cases hlow : low ≤ i <;> simp [regField, hi, hlow]

@[simp] theorem getElem_regField {n : Nat} (low i : Nat) (v : BitVec n) (hi : i < 64) :
    (regField low v)[i] = (decide (low ≤ i) && v.getLsbD (i - low)) := by
  rw [← BitVec.getLsbD_eq_getElem, getLsbD_regField low i v hi]

/-- A field reads back from its own bits. -/
@[simp] theorem extractLsb'_regField_self {n : Nat} (low : Nat) (v : BitVec n) (h : low + n ≤ 64) :
    (regField low v).extractLsb' low n = v := by
  ext i hi
  have hreg : low + i < 64 := by omega
  simp [hi, hreg]

/-- A field is 0 outside its own bits. -/
@[simp] theorem extractLsb'_regField_of_disjoint {n start len : Nat} (low : Nat) (v : BitVec n)
    (h : low + n ≤ start ∨ start + len ≤ low) : (regField low v).extractLsb' start len = 0#len := by
  ext i hi
  rw [BitVec.getElem_extractLsb', BitVec.getElem_zero]
  by_cases hreg : start + i < 64
  · rw [getLsbD_regField low _ v hreg]
    obtain habove | hbelow := h
    · simp [BitVec.getLsbD_of_ge v (start + i - low) (by omega)]
    · simp [show ¬ low ≤ start + i by omega]
  · exact BitVec.getLsbD_of_ge _ _ (by omega)

@[simp] theorem readReg_params (cfg : Config) (b : Block) : readReg cfg b 0#8 = regParams cfg := rfl
@[simp] theorem readReg_status (cfg : Config) (b : Block) : readReg cfg b 1#8 = regStatus cfg b := rfl
@[simp] theorem readReg_lastCrc (cfg : Config) (b : Block) : readReg cfg b 14#8 = regLastCrc b := rfl

/-- Register `6 + i` is the counter `cnt[i]` (R45). -/
theorem readReg_counter (cfg : Config) (b : Block) (i : Fin 8) :
    readReg cfg b (BitVec.ofNat 8 (6 + i.val)) = b.cnt[i].setWidth 64 := by
  fin_cases i <;> rfl

/-- The four fields of `PARAMS` (R44). -/
theorem regParams_fields (cfg : Config) :
    (regParams cfg).extractLsb' 0 16 = BitVec.ofNat 16 cfg.cap ∧
    (regParams cfg).extractLsb' 16 8 = BitVec.ofNat 8 cfg.fieldCap ∧
    (regParams cfg).extractLsb' 24 8 = BitVec.ofNat 8 cfg.c ∧
    (regParams cfg).extractLsb' 32 32 = BitVec.ofNat 32 cfg.w := by
  simp [regParams, BitVec.extractLsb'_or]

/-- Settles O11: the fields of `PARAMS`, whose values fit them by R10; the default value is computed. -/
theorem paramsRegister : Obligations.ParamsRegister := by
  refine ⟨fun cfg b hwf => ?_, fun b => rfl⟩
  obtain ⟨-, hcap, -, hfield, -, hc, -, hw, -⟩ := cfg.wf_iff.mp hwf
  obtain ⟨hcapBits, hfieldBits, hcBits, hwBits⟩ := regParams_fields cfg
  rw [readReg_params, hcapBits, hfieldBits, hcBits, hwBits]
  simp only [BitVec.toNat_ofNat]
  omega

/-- The fields of `STATUS` wider than a bit, and its reserved bits (R41). -/
theorem regStatus_fields (cfg : Config) (b : Block) :
    (regStatus cfg b).extractLsb' 0 2 = b.fsm.code ∧
    (regStatus cfg b).extractLsb' 5 3 = 0#3 ∧
    (regStatus cfg b).extractLsb' 8 8 = BitVec.ofNat 8 (b.rbCount cfg) ∧
    (regStatus cfg b).extractLsb' 16 8 = b.rd ∧
    (regStatus cfg b).extractLsb' 24 8 = b.wr ∧
    (regStatus cfg b).extractLsb' 32 3 = b.ckLen ∧
    (regStatus cfg b).extractLsb' 36 28 = 0#28 := by
  simp [regStatus, BitVec.extractLsb'_or]

/-- The flags of `STATUS` (R41). -/
theorem regStatus_flags (cfg : Config) (b : Block) :
    (regStatus cfg b).getLsbD 2 = b.busy ∧
    (regStatus cfg b).getLsbD 3 = b.halted ∧
    (regStatus cfg b).getLsbD 4 = b.winActive ∧
    (regStatus cfg b).getLsbD 35 = cfg.fatal := by
  simp [regStatus]

/-- Settles O12: each field of `STATUS` reads back from its own bits, and the state code is that of R22. -/
theorem statusRegister : Obligations.StatusRegister := by
  intro cfg b
  obtain ⟨hcode, hreserved, hcount, hrd, hwr, hckLen, hhigh⟩ := regStatus_fields cfg b
  obtain ⟨hbusy, hhalted, hactive, hfatal⟩ := regStatus_flags cfg b
  refine ⟨hcode.trans ?_, ?_, hhalted, hactive, hreserved, hcount, hrd, hwr, hckLen, hfatal, hhigh⟩
  · cases b.fsm <;> rfl
  · rw [readReg_status, hbusy, Block.busy_iff]

/-- The fields of `LAST_CRC` and its reserved bits (R46). -/
theorem regLastCrc_fields (b : Block) :
    (regLastCrc b).extractLsb' 0 16 = b.lastCrc.computed ∧
    (regLastCrc b).extractLsb' 16 16 = b.lastCrc.received ∧
    (regLastCrc b).getLsbD 32 = b.lastCrc.valid ∧
    (regLastCrc b).extractLsb' 33 31 = 0#31 := by
  simp [regLastCrc, BitVec.extractLsb'_or]

/-- Settles O13: registers 2 to 13 are the elements themselves, and `LAST_CRC` reads back field by field. -/
theorem valueRegisters : Obligations.ValueRegisters := fun cfg b =>
  ⟨rfl, rfl, rfl, rfl, readReg_counter cfg b, regLastCrc_fields b⟩

/-! ### Reset (R49, R331) -/

/-- Settles O5: `SRESET` is never held and always legal, so its effect happens in every state. -/
theorem sresetRestoresReset : Obligations.SresetRestoresReset := by
  intro s
  have haccept : accept opSreset true softReset s = softReset s := by
    simp [accept, Block.holds_sreset]
  exact congrArg Host.Outcome.next haccept

/-! ### The ring as a bounded queue (R32, R33, R235) -/

/-- The capacity of an accepted configuration fits the cursors (R10). -/
theorem capacity_bounds {cfg : Config} (hwf : cfg.wf = true) : 1 ≤ cfg.c ∧ cfg.c ≤ 255 := by
  obtain ⟨-, -, -, -, hpos, hle, -⟩ := cfg.wf_iff.mp hwf
  exact ⟨hpos, hle⟩

/-- A Sample is real when its window start is not `EMPTY_TS` (R31). -/
theorem Sample.real_iff (s : Sample) : s.real = true ↔ s.ws ≠ 0xFFFFFFFFFFFFFFFF#64 := by
  simp [Sample.real, emptyTs]

theorem emptySample_real : emptySample.real = false := by decide

/-- Places of the ring below `C` are different slots. -/
theorem Block.ringIndex_inj {cfg : Config} {b : Block} {i j : Nat} (hi : i < cfg.c) (hj : j < cfg.c) :
    b.ringIndex cfg i = b.ringIndex cfg j ↔ i = j := by
  refine ⟨fun h => ?_, congrArg _⟩
  exact (Nat.ModEq.add_left_cancel' b.rd.toNat h).eq_of_lt_of_lt hi hj

/-- The place `C` slots after `rd` is `rd` again. -/
theorem Block.ringIndex_wrap {cfg : Config} {b : Block} (hrd : b.rd.toNat < cfg.c) :
    b.ringIndex cfg cfg.c = b.rd.toNat := by
  simp [Block.ringIndex, Nat.mod_eq_of_lt hrd]

theorem Block.ringIndex_zero {cfg : Config} {b : Block} (hrd : b.rd.toNat < cfg.c) :
    b.ringIndex cfg 0 = b.rd.toNat := by
  simp [Block.ringIndex, Nat.mod_eq_of_lt hrd]

/-- The ring holds `n` Samples: the occupied slots are the `n` slots from `rd` on, and `wr` is the place after them (R33).
This is the ring invariant with a free number in the place of the fill count, which `RingHolds.rbCount_eq` determines. -/
structure Block.RingHolds (cfg : Config) (n : Nat) (b : Block) : Prop where
  slots_length : b.slots.length = cfg.c
  rd_lt : b.rd.toNat < cfg.c
  count_le : n ≤ cfg.c
  wr_eq : b.wr.toNat = b.ringIndex cfg n
  occupied_iff : ∀ i, i < cfg.c → ((b.ringSlot cfg i).real = true ↔ i < n)
  empty_slots : ∀ s ∈ b.slots, s.real = false → s = emptySample

/-- The fill count of an occupied `rd`, in the integers (R32). -/
theorem Block.rbCount_of_occupied {cfg : Config} {b : Block} (hc : 1 ≤ cfg.c) (h : b.occupied b.rd = true) :
    (b.rbCount cfg : Int) = ((b.wr.toNat : Int) - b.rd.toNat - 1) % cfg.c + 1 := by
  have hnonneg : 0 ≤ ((b.wr.toNat : Int) - b.rd.toNat - 1) % cfg.c := Int.emod_nonneg _ (by omega)
  simp [Block.rbCount, h, hnonneg]

theorem Block.rbCount_of_not_occupied {cfg : Config} {b : Block} (h : b.occupied b.rd = false) :
    b.rbCount cfg = 0 := by
  simp [Block.rbCount, h]

/-- The fill count never exceeds the capacity (R32). -/
theorem Block.rbCount_le {cfg : Config} (b : Block) (hc : 1 ≤ cfg.c) : b.rbCount cfg ≤ cfg.c := by
  cases h : b.occupied b.rd
  · simp [Block.rbCount_of_not_occupied h]
  · have hcount := Block.rbCount_of_occupied hc h
    have hlt : ((b.wr.toNat : Int) - b.rd.toNat - 1) % cfg.c < cfg.c := Int.emod_lt_of_pos _ (by omega)
    omega

theorem Block.ringSlot_zero {cfg : Config} {b : Block} (hrd : b.rd.toNat < cfg.c) :
    b.ringSlot cfg 0 = b.slot b.rd := by
  rw [Block.ringSlot, Block.ringIndex_zero hrd, Block.slot]

namespace Block.RingHolds
variable {cfg : Config} {n : Nat} {b : Block}

/-- A non-empty ring has an occupied `rd`. -/
theorem occupied_rd (h : b.RingHolds cfg n) : b.occupied b.rd = true ↔ 0 < n := by
  rw [← h.occupied_iff 0 (Nat.zero_lt_of_lt h.rd_lt), Block.ringSlot_zero h.rd_lt]
  rfl

/-- The rule of R32 computes the number of Samples the ring holds. -/
theorem rbCount_eq (h : b.RingHolds cfg n) : b.rbCount cfg = n := by
  have hc : 1 ≤ cfg.c := Nat.one_le_of_lt h.rd_lt
  obtain rfl | hpos := Nat.eq_zero_or_pos n
  · have hfree : b.occupied b.rd = false := by simp [← Bool.not_eq_true, h.occupied_rd]
    exact Block.rbCount_of_not_occupied hfree
  · have hmod : ((b.wr.toNat : Int) - b.rd.toNat - 1) % cfg.c = n - 1 := by
      calc ((b.wr.toNat : Int) - b.rd.toNat - 1) % cfg.c
          = (((b.rd.toNat + n : Nat) : Int) % cfg.c - (b.rd.toNat + 1)) % cfg.c := by
            rw [h.wr_eq, Block.ringIndex, Int.natCast_mod, sub_sub]
        _ = ((b.rd.toNat + n : Nat) - (b.rd.toNat + 1)) % cfg.c := Int.emod_sub_emod _ _ _
        _ = ((n : Int) - 1) % cfg.c := by congr 1; omega
        _ = n - 1 := Int.emod_eq_of_lt (by omega) (by have := h.count_le; omega)
    have hcount := Block.rbCount_of_occupied hc (h.occupied_rd.mpr hpos)
    omega

theorem ringInv (h : b.RingHolds cfg n) : b.RingInv cfg where
  slots_length := h.slots_length
  rd_lt := h.rd_lt
  wr_eq := by rw [h.rbCount_eq]; exact h.wr_eq
  occupied_iff := by rw [h.rbCount_eq]; exact h.occupied_iff
  empty_slots := h.empty_slots

end Block.RingHolds

theorem Block.RingInv.holds {cfg : Config} {b : Block} (h : b.RingInv cfg) :
    b.RingHolds cfg (b.rbCount cfg) where
  slots_length := h.slots_length
  rd_lt := h.rd_lt
  count_le := b.rbCount_le (Nat.one_le_of_lt h.rd_lt)
  wr_eq := h.wr_eq
  occupied_iff := h.occupied_iff
  empty_slots := h.empty_slots

/-- The ring is full when it holds `C` Samples (R232). -/
theorem Block.RingHolds.ringFull_iff {cfg : Config} {n : Nat} {b : Block} (h : b.RingHolds cfg n) :
    b.ringFull = true ↔ n = cfg.c := by
  have hmeet : b.wr = b.rd ↔ b.ringIndex cfg n = b.rd.toNat := by rw [BitVec.toNat_eq, h.wr_eq]
  rw [Block.ringFull, Bool.and_eq_true, beq_iff_eq, hmeet, h.occupied_rd]
  constructor
  · rintro ⟨hindex, hpos⟩
    by_contra hne
    have hlt : n < cfg.c := lt_of_le_of_ne h.count_le hne
    rw [← Block.ringIndex_zero h.rd_lt, Block.ringIndex_inj hlt (by omega)] at hindex
    omega
  · rintro rfl
    exact ⟨Block.ringIndex_wrap h.rd_lt, Nat.zero_lt_of_lt h.rd_lt⟩

/-- Settles O46: the rule's number by its two cases, its bound by the remainder, and `C` as the full ring of R232. -/
theorem fillCountRange : Obligations.FillCountRange := by
  intro cfg b hwf hring
  obtain ⟨hpos, -⟩ := capacity_bounds hwf
  have hocc : b.occupied b.rd = true ↔
      (b.slots.getD b.rd.toNat emptySample).ws ≠ 0xFFFFFFFFFFFFFFFF#64 := Sample.real_iff _
  refine ⟨fun hfree => ?_, fun hreal => ?_, b.rbCount_le hpos, ?_⟩
  · exact Block.rbCount_of_not_occupied (Bool.eq_false_iff.mpr fun h => hocc.mp h hfree)
  · exact Block.rbCount_of_occupied hpos (hocc.mpr hreal)
  · rw [← hring.holds.ringFull_iff, Block.ringFull, Bool.and_eq_true, beq_iff_eq, hocc]
    exact and_congr_left fun _ => eq_comm

/-! Removing the oldest Sample (R238, R240): every place moves one towards `rd`, and the last one is empty. -/

section dropOldest
variable {cfg : Config} {n : Nat} {b : Block}

theorem Block.ringIndex_dropOldest (hc : 1 ≤ cfg.c) (hfits : cfg.c ≤ 255) (i : Nat) :
    (b.dropOldest cfg).ringIndex cfg i = b.ringIndex cfg (i + 1) := by
  rw [Block.ringIndex, Block.dropOldest_rd, nextCursor_toNat cfg b.rd hc hfits, Nat.mod_add_mod, Block.ringIndex]
  congr 1
  omega

theorem Block.RingHolds.ringSlot_dropOldest (h : b.RingHolds cfg n) (hfits : cfg.c ≤ 255) {i : Nat} (hi : i < cfg.c) :
    (b.dropOldest cfg).ringSlot cfg i = if i + 1 = cfg.c then emptySample else b.ringSlot cfg (i + 1) := by
  have hc : 1 ≤ cfg.c := Nat.one_le_of_lt h.rd_lt
  rw [Block.ringSlot, Block.ringIndex_dropOldest hc hfits, Block.dropOldest_slots]
  split
  next hlast =>
    rw [hlast, Block.ringIndex_wrap h.rd_lt]
    simp [h.slots_length, h.rd_lt]
  next hinner =>
    have hne : b.rd.toNat ≠ b.ringIndex cfg (i + 1) := by
      rw [← Block.ringIndex_zero h.rd_lt, Ne, Block.ringIndex_inj (by omega) (by omega)]
      omega
    simp [Block.ringSlot, List.getElem?_set_ne hne]

/-- Removing the oldest Sample leaves one fewer. -/
theorem Block.RingHolds.dropOldest (h : b.RingHolds cfg (n + 1)) (hfits : cfg.c ≤ 255) :
    (b.dropOldest cfg).RingHolds cfg n where
  slots_length := by simp [h.slots_length]
  rd_lt := nextCursor_lt cfg b.rd (Nat.one_le_of_lt h.rd_lt)
  count_le := Nat.le_of_succ_le h.count_le
  wr_eq := by rw [Block.ringIndex_dropOldest (Nat.one_le_of_lt h.rd_lt) hfits]; exact h.wr_eq
  occupied_iff := by
    intro i hi
    have hcount := h.count_le
    rw [h.ringSlot_dropOldest hfits hi]
    split
    next hlast => simp [emptySample_real]; omega
    next hinner => rw [h.occupied_iff (i + 1) (by omega)]; omega
  empty_slots := by
    intro s hs hfree
    rw [Block.dropOldest_slots] at hs
    obtain hold | rfl := List.mem_or_eq_of_mem_set hs
    · exact h.empty_slots s hold hfree
    · rfl

theorem Block.RingHolds.ringList_eq (h : b.RingHolds cfg n) :
    b.ringList cfg = (List.range n).map (b.ringSlot cfg) := by
  rw [Block.ringList, h.rbCount_eq]

theorem Block.RingHolds.ringList_dropOldest (h : b.RingHolds cfg (n + 1)) (hfits : cfg.c ≤ 255) :
    b.ringList cfg = b.slot b.rd :: (b.dropOldest cfg).ringList cfg := by
  rw [h.ringList_eq, (h.dropOldest hfits).ringList_eq, List.range_succ_eq_map, List.map_cons, List.map_map,
    Block.ringSlot_zero h.rd_lt]
  congr 1
  apply List.map_congr_left
  intro i hi
  have hin : i < n := List.mem_range.mp hi
  have hcount := h.count_le
  rw [h.ringSlot_dropOldest hfits (by omega), if_neg (by omega)]
  rfl

end dropOldest

/-! Storing a Sample where there is room (R232): it is the new last place. -/

section storeSample
variable {cfg : Config} {n : Nat} {b : Block} {s : Sample}

theorem Block.RingHolds.ringSlot_storeSample (h : b.RingHolds cfg n) (hroom : n < cfg.c) {i : Nat} (hi : i < cfg.c) :
    (b.storeSample cfg s).ringSlot cfg i = if i = n then s else b.ringSlot cfg i := by
  have hindex : (b.storeSample cfg s).ringIndex cfg i = b.ringIndex cfg i := rfl
  have hlt : b.ringIndex cfg n < cfg.c := Nat.mod_lt _ (Nat.zero_lt_of_lt hi)
  rw [Block.ringSlot, hindex, Block.storeSample_slots, h.wr_eq]
  split
  next hlast => simp [hlast, h.slots_length, hlt]
  next hother =>
    have hne : b.ringIndex cfg n ≠ b.ringIndex cfg i := by
      rw [Ne, Block.ringIndex_inj hroom hi]
      exact Ne.symm hother
    simp [Block.ringSlot, List.getElem?_set_ne hne]

/-- Storing a real Sample where there is room leaves one more. -/
theorem Block.RingHolds.storeSample (h : b.RingHolds cfg n) (hroom : n < cfg.c) (hfits : cfg.c ≤ 255)
    (hs : s.real = true) : (b.storeSample cfg s).RingHolds cfg (n + 1) where
  slots_length := by simp [h.slots_length]
  rd_lt := h.rd_lt
  count_le := hroom
  wr_eq := by
    rw [Block.storeSample_wr, nextCursor_toNat cfg b.wr (by omega) hfits, h.wr_eq, Block.ringIndex, Nat.mod_add_mod]
    rfl
  occupied_iff := by
    intro i hi
    rw [h.ringSlot_storeSample hroom hi]
    split
    next hlast => simp [hs, hlast]
    next hother => rw [h.occupied_iff i hi]; omega
  empty_slots := by
    intro t ht hfree
    rw [Block.storeSample_slots] at ht
    obtain hold | rfl := List.mem_or_eq_of_mem_set ht
    · exact h.empty_slots t hold hfree
    · exact absurd hs (by simp [hfree])

theorem Block.RingHolds.ringList_storeSample (h : b.RingHolds cfg n) (hroom : n < cfg.c) (hfits : cfg.c ≤ 255)
    (hs : s.real = true) : (b.storeSample cfg s).ringList cfg = b.ringList cfg ++ [s] := by
  rw [(h.storeSample hroom hfits hs).ringList_eq, h.ringList_eq, List.range_succ, List.map_append, List.map_singleton,
    h.ringSlot_storeSample hroom hroom, if_pos rfl]
  congr 1
  apply List.map_congr_left
  intro i hi
  have hin : i < n := List.mem_range.mp hi
  rw [h.ringSlot_storeSample hroom (by omega), if_neg (by omega)]

end storeSample

/-- The ring is its slots and cursors. -/
theorem Block.RingHolds.congr {cfg : Config} {n : Nat} {a b : Block} (h : b.RingHolds cfg n)
    (hslots : a.slots = b.slots) (hrd : a.rd = b.rd) (hwr : a.wr = b.wr) :
    a.RingHolds cfg n where
  slots_length := by rw [hslots]; exact h.slots_length
  rd_lt := by rw [hrd]; exact h.rd_lt
  count_le := h.count_le
  wr_eq := by rw [hwr, Block.ringIndex, hrd]; exact h.wr_eq
  occupied_iff := by simpa only [Block.ringSlot, Block.ringIndex, hslots, hrd] using h.occupied_iff
  empty_slots := by rw [hslots]; exact h.empty_slots

theorem Block.RingHolds.ringList_length {cfg : Config} {n : Nat} {b : Block} (h : b.RingHolds cfg n) :
    (b.ringList cfg).length = n := by
  simp [h.ringList_eq]

/-- A push appends, after dropping the oldest Sample of a full ring (R232, R235). -/
theorem Block.RingHolds.push {cfg : Config} {n : Nat} {b : Block} {s : Sample} (h : b.RingHolds cfg n)
    (hfits : cfg.c ≤ 255) (hs : s.real = true) :
    (b.push cfg s).RingHolds cfg (if n = cfg.c then n else n + 1) ∧
      (b.push cfg s).ringList cfg = (if n = cfg.c then (b.ringList cfg).tail else b.ringList cfg) ++ [s] := by
  obtain ⟨hfull, hpush⟩ | ⟨hroom, hpush⟩ := b.push_cases cfg s <;> rw [hpush]
  · have hn : n = cfg.c := h.ringFull_iff.mp hfull
    obtain ⟨m, rfl⟩ := Nat.exists_eq_add_one_of_ne_zero (hn ▸ Nat.ne_zero_of_lt h.rd_lt)
    have hdropped : ((b.dropOldest cfg).raise .evict).RingHolds cfg m := (h.dropOldest hfits).congr rfl rfl rfl
    have hlt : m < cfg.c := by omega
    rw [if_pos hn, if_pos hn, hdropped.ringList_storeSample hlt hfits hs, h.ringList_dropOldest hfits]
    exact ⟨hdropped.storeSample hlt hfits hs, rfl⟩
  · have hn : n ≠ cfg.c := fun hn => Bool.eq_false_iff.mp hroom (h.ringFull_iff.mpr hn)
    have hlt : n < cfg.c := lt_of_le_of_ne h.count_le hn
    rw [if_neg hn, if_neg hn]
    exact ⟨h.storeSample hlt hfits hs, h.ringList_storeSample hlt hfits hs⟩

theorem Block.RingInv.push {cfg : Config} {b : Block} {s : Sample} (hwf : cfg.wf = true) (h : b.RingInv cfg)
    (hs : s.real = true) : (b.push cfg s).RingInv cfg :=
  (h.holds.push (capacity_bounds hwf).2 hs).1.ringInv

/-- With an occupied `rd` the ring holds at least one Sample. -/
theorem Block.RingInv.holds_succ {cfg : Config} {b : Block} (h : b.RingInv cfg) (hocc : b.occupied b.rd = true) :
    ∃ n, b.RingHolds cfg (n + 1) := by
  obtain ⟨n, hn⟩ := Nat.exists_eq_add_one_of_ne_zero (Nat.pos_iff_ne_zero.mp (h.holds.occupied_rd.mp hocc))
  exact ⟨n, hn ▸ h.holds⟩

theorem Block.RingInv.dropOldest {cfg : Config} {b : Block} (hwf : cfg.wf = true) (h : b.RingInv cfg)
    (hocc : b.occupied b.rd = true) : (b.dropOldest cfg).RingInv cfg := by
  obtain ⟨n, hholds⟩ := h.holds_succ hocc
  exact (hholds.dropOldest (capacity_bounds hwf).2).ringInv

theorem Block.RingInv.congr {cfg : Config} {a b : Block} (h : b.RingInv cfg) (hslots : a.slots = b.slots)
    (hrd : a.rd = b.rd) (hwr : a.wr = b.wr) : a.RingInv cfg :=
  (h.holds.congr hslots hrd hwr).ringInv

theorem Block.ringList_of_not_occupied {cfg : Config} {b : Block} (h : b.occupied b.rd = false) :
    b.ringList cfg = [] := by
  rw [Block.ringList, Block.rbCount_of_not_occupied h]
  rfl

/-- Settles O47: the rules for a push and for a removal, with the fill count as the number of Samples. -/
theorem ringIsBoundedQueue : Obligations.RingIsBoundedQueue := by
  intro cfg b hwf hring
  obtain ⟨-, hfits⟩ := capacity_bounds hwf
  refine ⟨fun s hs => ?_, fun hocc => ⟨hring.dropOldest hwf hocc, ?_⟩, Block.ringList_of_not_occupied⟩
  · have hreal : s.real = true := s.real_iff.mpr hs
    rw [hring.holds.ringList_length]
    exact ⟨hring.push hwf hreal, (hring.holds.push hfits hreal).2⟩
  · obtain ⟨n, hholds⟩ := hring.holds_succ hocc
    exact hholds.ringList_dropOldest hfits

/-! ### The invariant of the model (R33, R163, R313) -/

theorem Block.DecoderInv.congr {cfg : Config} {a b : Block} (h : b.DecoderInv cfg) (hfsm : a.fsm = b.fsm)
    (hcap : a.cap = b.cap) (hck : a.ck = b.ck) (hhalted : a.halted = b.halted) :
    a.DecoderInv cfg where
  cap_le := by rw [hcap]; exact h.cap_le
  ck_le := by rw [hck]; exact h.ck_le
  ck_lt := by rw [hfsm, hck]; exact h.ck_lt
  capturing := by rw [hfsm, hcap]; exact h.capturing
  captured := by rw [hfsm, hcap]; exact h.captured
  halted_idle := by rw [hhalted, hfsm]; exact h.halted_idle

theorem Block.WindowInv.congr {cfg : Config} {a b : Block} (h : b.WindowInv cfg) (hnow : a.now = b.now)
    (hbucket : a.winBucket = b.winBucket) (hn : a.acc.n = b.acc.n)
    (hactive : a.winActive = b.winActive) : a.WindowInv cfg where
  now_lt := by rw [hnow]; exact h.now_lt
  start_le := by rw [hbucket]; exact h.start_le
  active := by rw [hn, hactive]; exact h.active

/-- Counting an event keeps the invariant. -/
theorem Block.Inv.raise {cfg : Config} {b : Block} (h : b.Inv cfg) (e : Event) : (b.raise e).Inv cfg :=
  ⟨h.decoder.congr rfl rfl rfl rfl, h.window.congr rfl rfl rfl rfl, h.ring.congr rfl rfl rfl⟩

/-- In Idle only the bounds of the buffers are left of the decoder's invariant. -/
theorem Block.DecoderInv.of_idle {cfg : Config} {b : Block} (hidle : b.fsm = .idle) (hmem : b.memoryWf cfg = true) :
    b.DecoderInv cfg := by
  obtain ⟨hcap, hck, -⟩ := (b.memoryWf_iff cfg).mp hmem
  refine ⟨hcap, hck, ?_, ?_, ?_, fun _ => hidle⟩ <;> simp [hidle]

theorem Block.Inv.memoryWf {cfg : Config} {b : Block} (h : b.Inv cfg) : b.memoryWf cfg = true :=
  (b.memoryWf_iff cfg).mpr ⟨h.decoder.cap_le, h.decoder.ck_le, h.ring.slots_length⟩

/-! Reset. -/

/-- After reset the ring holds nothing. -/
theorem Block.ringHolds_reset {cfg : Config} (hc : 1 ≤ cfg.c) : (Block.reset cfg).RingHolds cfg 0 where
  slots_length := List.length_replicate
  rd_lt := hc
  count_le := Nat.zero_le _
  wr_eq := by simp [Block.ringIndex, Block.reset]
  occupied_iff := by
    intro i hi
    have hslot : (Block.reset cfg).ringSlot cfg i = emptySample := by
      simp only [Block.ringSlot, Block.reset, List.getD_eq_getElem?_getD, List.getElem?_replicate]
      split <;> rfl
    simp [hslot, emptySample_real]
  empty_slots := fun s hs _ => List.eq_of_mem_replicate hs

theorem Block.inv_reset {cfg : Config} (hwf : cfg.wf = true) : (Block.reset cfg).Inv cfg where
  decoder := .of_idle rfl (Block.memoryWf_reset cfg)
  window := ⟨by simp [Block.reset], by simp [Block.reset], fun hn => absurd rfl hn⟩
  ring := (Block.ringHolds_reset (capacity_bounds hwf).1).ringInv

theorem State.inv_resetWith {cfg : Config} (hwf : cfg.wf = true) : (State.resetWith cfg).Inv :=
  ⟨hwf, Block.inv_reset hwf⟩

/-- Settles O57: the reset block is in good order, and its first slot is empty. -/
theorem powerOnHasInvariant : Obligations.PowerOnHasInvariant := fun _ hwf =>
  ⟨State.inv_resetWith hwf, (Block.ringHolds_reset (capacity_bounds hwf).1).ringList_eq⟩

theorem defaultConfig_wf : Config.default.wf = true := by decide +kernel

/-- Settles O56: the default configuration is an accepted one (R7, R92). -/
theorem resetHasInvariant : Obligations.ResetHasInvariant := State.inv_resetWith defaultConfig_wf

/-! The decoder's bytes (R131 to R138). -/

/-- A byte writes the decoder's elements and the counters, nothing else. -/
theorem Block.feedByte_frame (cfg : Config) (x : Byte) (b : Block) :
    ∃ fsm cap ck cnt, b.feedByte cfg x = { b with fsm := fsm, cap := cap, ck := ck, cnt := cnt } := by
  cases hfsm : b.fsm <;> simp only [Block.feedByte, hfsm]
  case idle =>
    unfold Block.stepIdle
    split <;> exact ⟨_, _, _, _, rfl⟩
  case capturing =>
    unfold Block.stepCapture
    split
    · exact ⟨_, _, _, _, rfl⟩
    · split <;> exact ⟨_, _, _, _, rfl⟩
  case readingChecksum =>
    unfold Block.stepChecksum
    split
    · exact ⟨_, _, _, _, rfl⟩
    · dsimp only
      split <;> exact ⟨_, _, _, _, rfl⟩
  case ready => exact ⟨_, _, _, _, rfl⟩

theorem Block.DecoderInv.stepIdle {cfg : Config} {b : Block} (x : Byte) (hcap : 1 ≤ cfg.cap)
    (h : b.DecoderInv cfg) (hrun : b.halted = false) : (b.stepIdle x).DecoderInv cfg := by
  unfold Block.stepIdle
  split
  next hslash =>
    exact ⟨hcap, h.ck_le, by simp, fun _ => ⟨[], by simp [hslash], by simp⟩, by simp, by simp [hrun]⟩
  next => exact h

theorem Block.DecoderInv.stepCapture {cfg : Config} {b : Block} (x : Byte) (h : b.DecoderInv cfg)
    (hrun : b.halted = false) (hfsm : b.fsm = .capturing) : (b.stepCapture cfg x).DecoderInv cfg := by
  obtain ⟨rest, hcap, hrest⟩ := h.capturing hfsm
  unfold Block.stepCapture
  split
  next => exact ⟨by simp, h.ck_le, by simp, by simp, by simp, by simp⟩
  next hroom =>
    have hle : (b.cap ++ [x]).length ≤ cfg.cap := by
      have := h.cap_le
      simp; omega
    split
    next hbang =>
      exact ⟨hle, by simp, by simp, by simp, fun _ => ⟨rest, by simp [hcap, hbang], hrest⟩, by simp [hrun]⟩
    next hother =>
      exact ⟨hle, h.ck_le, by simp [hfsm], fun _ => ⟨rest ++ [x], by simp [hcap], by simp [hrest, Ne.symm hother]⟩,
        by simp [hfsm], by simp [hrun]⟩

theorem Block.DecoderInv.stepChecksum {cfg : Config} {b : Block} (x : Byte) (h : b.DecoderInv cfg)
    (hrun : b.halted = false) (hfsm : b.fsm = .readingChecksum) : (b.stepChecksum x).DecoderInv cfg := by
  have hcaptured := h.captured (.inl hfsm)
  have hlt := h.ck_lt hfsm
  have hle : (b.ck ++ [x]).length ≤ 4 := by simp; omega
  unfold Block.stepChecksum
  split
  next => exact ⟨h.cap_le, h.ck_le, by simp, by simp, fun _ => hcaptured, by simp [hrun]⟩
  next =>
    dsimp only
    split
    next => exact ⟨h.cap_le, hle, by simp, by simp, fun _ => hcaptured, by simp [hrun]⟩
    next hmore =>
      exact ⟨h.cap_le, hle, fun _ => lt_of_le_of_ne hle hmore, by simp [hfsm], fun _ => hcaptured, by simp [hrun]⟩

theorem Block.DecoderInv.feedByte {cfg : Config} {b : Block} (x : Byte) (hwf : cfg.wf = true)
    (h : b.DecoderInv cfg) (hrun : b.halted = false) : (b.feedByte cfg x).DecoderInv cfg := by
  obtain ⟨hcap, -⟩ := cfg.wf_iff.mp hwf
  unfold Block.feedByte
  split
  next => exact h.stepIdle x (by omega) hrun
  next hfsm => exact h.stepCapture x hrun hfsm
  next hfsm => exact h.stepChecksum x hrun hfsm
  next => exact h

theorem Block.Inv.feedByte {cfg : Config} {b : Block} (x : Byte) (hwf : cfg.wf = true) (h : b.Inv cfg)
    (hrun : b.halted = false) : (b.feedByte cfg x).Inv cfg := by
  obtain ⟨fsm, cap, ck, cnt, hframe⟩ := b.feedByte_frame cfg x
  have hwindow : (b.feedByte cfg x).WindowInv cfg := by rw [hframe]; exact h.window.congr rfl rfl rfl rfl
  have hring : (b.feedByte cfg x).RingInv cfg := by rw [hframe]; exact h.ring.congr rfl rfl rfl
  exact ⟨h.decoder.feedByte x hwf hrun, hwindow, hring⟩

/-! `EVAL` (R140 to R144, R160, R200). -/

/-- The start of the window of a time is not after it, so it does not wrap (R200, R206). -/
theorem bucketOf_mul_le (cfg : Config) (t : Word) : (bucketOf cfg t).toNat * cfg.w ≤ t.toNat := by
  have hlt : t.toNat / cfg.w < 2 ^ 64 := lt_of_le_of_lt (Nat.div_le_self _ _) t.isLt
  rw [bucketOf, BitVec.toNat_ofNat, Nat.mod_eq_of_lt hlt]
  exact Nat.div_mul_le_self _ _

/-- The Sample of a window in good order is a real one (R31, R206). -/
theorem Block.WindowInv.finalSample_real {cfg : Config} {b : Block} (h : b.WindowInv cfg) :
    (b.finalSample cfg).real = true := by
  have hstart := h.start_le
  rw [Sample.real_iff, Ne, BitVec.toNat_eq]
  simp only [Block.finalSample, windowStart, BitVec.toNat_ofNat]
  omega

theorem Block.RingInv.finalize {cfg : Config} {b : Block} (hwf : cfg.wf = true) (hwindow : b.WindowInv cfg)
    (h : b.RingInv cfg) : (b.finalize cfg).RingInv cfg := by
  obtain ⟨-, heq⟩ | ⟨-, heq⟩ := b.finalize_cases cfg <;> rw [heq]
  · exact h.congr rfl rfl rfl
  · exact h.push hwf hwindow.finalSample_real

/-- A window started at a time in good order is in good order. -/
theorem Block.windowInv_startWindow {cfg : Config} {b : Block} (hnow : b.now.toNat ≤ 2 ^ 64 - 2) :
    (b.startWindow (bucketOf cfg b.now)).WindowInv cfg where
  now_lt := hnow
  start_le := (bucketOf_mul_le cfg b.now).trans hnow
  active := fun _ => rfl

/-- `WINDOW_SELECT` of the current time leaves an active window, and window and ring in good order. -/
theorem Block.selectWindow_inv {cfg : Config} {b : Block} (hwf : cfg.wf = true) (hwindow : b.WindowInv cfg)
    (hring : b.RingInv cfg) :
    (b.selectWindow cfg b.now).winActive = true ∧ (b.selectWindow cfg b.now).WindowInv cfg ∧
      (b.selectWindow cfg b.now).RingInv cfg := by
  obtain ⟨-, heq⟩ | ⟨-, -, heq⟩ | ⟨hactive, -, heq⟩ := b.selectWindow_cases cfg b.now <;> rw [heq]
  · exact ⟨rfl, Block.windowInv_startWindow hwindow.now_lt, hring.congr rfl rfl rfl⟩
  · have hnow : (b.finalize cfg).now = b.now := by
      obtain ⟨_, _, _, _, hframe⟩ := b.finalize_frame cfg
      rw [hframe]
    refine ⟨rfl, ?_, (hring.finalize hwf hwindow).congr rfl rfl rfl⟩
    rw [← hnow]
    exact Block.windowInv_startWindow (hnow ▸ hwindow.now_lt)
  · exact ⟨hactive, hwindow, hring⟩

/-- The loop of `PARSE` writes the accumulator, the counters and the halt, nothing else (R164, R178). -/
theorem Block.parseLines_frame (cfg : Config) (lines : List (List Byte)) (b : Block) :
    ∃ acc cnt halted, b.parseLines cfg lines = { b with acc := acc, cnt := cnt, halted := halted } := by
  obtain ⟨acc, -, heq | heq⟩ := Block.parseLines_cases cfg lines b <;> rw [heq]
  · exact ⟨_, _, _, rfl⟩
  · rw [Block.fieldError_eq]
    exact ⟨_, _, _, rfl⟩

/-- The loop of `PARSE` keeps window and ring, once a window is active. -/
theorem Block.parseLines_inv {cfg : Config} {b : Block} (lines : List (List Byte)) (hactive : b.winActive = true)
    (hwindow : b.WindowInv cfg) (hring : b.RingInv cfg) :
    (b.parseLines cfg lines).WindowInv cfg ∧ (b.parseLines cfg lines).RingInv cfg := by
  obtain ⟨acc, cnt, halted, hframe⟩ := b.parseLines_frame cfg lines
  rw [hframe]
  exact ⟨⟨hwindow.now_lt, hwindow.start_le, fun _ => hactive⟩, hring.congr rfl rfl rfl⟩

theorem Block.Inv.eval {cfg : Config} {b : Block} (hwf : cfg.wf = true) (h : b.Inv cfg) : (b.eval cfg).Inv cfg := by
  have hdecoder : (b.eval cfg).DecoderInv cfg := .of_idle rfl (Block.memoryWf_eval h.memoryWf)
  obtain ⟨-, heq⟩ | ⟨-, heq⟩ := b.eval_cases cfg <;> rw [heq] at hdecoder ⊢
  · exact ⟨hdecoder, h.window.congr rfl rfl rfl rfl, h.ring.congr rfl rfl rfl⟩
  · have hwindow : (b.recordCrc.raise .frameOk).WindowInv cfg := h.window.congr rfl rfl rfl rfl
    obtain ⟨hactive, hselected, hring⟩ := Block.selectWindow_inv hwf hwindow (h.ring.congr rfl rfl rfl)
    obtain ⟨hparsed, hringParsed⟩ := Block.parseLines_inv (splitLF b.cap) hactive hselected hring
    exact ⟨hdecoder, hparsed.congr rfl rfl rfl rfl, hringParsed.congr rfl rfl rfl⟩

/-! The commands and the step (R268, R15). -/

/-- The invariant does not look at the Host (R37). -/
theorem State.Inv.of_block {s t : State} (h : s.Inv) (hcfg : t.cfg = s.cfg) (hblock : t.block.Inv s.cfg) :
    t.Inv :=
  ⟨hcfg ▸ h.config, hcfg ▸ hblock⟩

theorem State.Inv.rejectIllegal {s : State} (h : s.Inv) : s.rejectIllegal.Inv :=
  h.of_block rfl (h.block.raise .illegal)

/-- A command keeps the invariant if its own effect does where its operand is legal (R268). -/
theorem accept_inv {op : Byte} {legal : Bool} {effect : State → State} {s : State} (h : s.Inv)
    (heffect : legal = true → (effect s).Inv) : (accept op legal effect s).Inv := by
  obtain ⟨-, heq⟩ | ⟨-, hlegal, heq⟩ | ⟨-, -, heq⟩ := accept_cases op legal effect s <;> rw [heq]
  · exact h
  · exact heffect hlegal
  · exact h.rejectIllegal

theorem takeByte_inv {s : State} (x : Byte) (h : s.Inv) : (takeByte x s).Inv := by
  unfold takeByte
  split
  next => exact h.of_block rfl h.block
  next hrun => exact h.of_block rfl (h.block.feedByte x h.config (Bool.eq_false_iff.mpr hrun))

/-- A legal time is below `EMPTY_TS` (R84 item 4, R25). -/
theorem timeLegal_le {t : Word} (h : timeLegal t = true) : t.toNat ≤ 2 ^ 64 - 2 := by
  have hne : t ≠ 0xFFFFFFFFFFFFFFFF#64 := by simpa [timeLegal] using h
  bv_omega

theorem setTime_inv {s : State} {t : Word} (h : s.Inv) (hlegal : timeLegal t = true) : (setTime t s).Inv := by
  obtain ⟨-, hstart, hactive⟩ := h.block.window
  exact h.of_block rfl
    ⟨h.block.decoder.congr rfl rfl rfl rfl, ⟨timeLegal_le hlegal, hstart, hactive⟩, h.block.ring.congr rfl rfl rfl⟩

theorem popSample_inv {s : State} (h : s.Inv) : (popSample s).Inv := by
  unfold popSample
  split
  next hocc =>
    exact h.of_block rfl
      ⟨h.block.decoder.congr rfl rfl rfl rfl, h.block.window.congr rfl rfl rfl rfl,
        h.block.ring.dropOldest h.config hocc⟩
  next => exact h.of_block rfl h.block

theorem clearCounters_inv {s : State} (h : s.Inv) : (clearCounters s).Inv :=
  h.of_block rfl
    ⟨h.block.decoder.congr rfl rfl rfl rfl, h.block.window.congr rfl rfl rfl rfl, h.block.ring.congr rfl rfl rfl⟩

theorem softReset_inv {s : State} (h : s.Inv) : (softReset s).Inv :=
  h.of_block rfl (Block.inv_reset h.config)

theorem exec_inv (i : Instr) {s t : State} (h : s.Inv) (hexec : exec i s = .next t) : t.Inv := by
  cases i <;> cases hexec
  case nop => exact accept_inv h fun _ => h.of_block rfl h.block
  case feed b => exact accept_inv h fun _ => takeByte_inv b h
  case setnow t => exact accept_inv h (setTime_inv h)
  case pop => exact accept_inv h fun _ => popSample_inv h
  case rdreg idx => exact accept_inv h fun _ => h.of_block rfl h.block
  case clrstat => exact accept_inv h fun _ => clearCounters_inv h
  case sreset => exact accept_inv h fun _ => softReset_inv h

theorem State.Inv.takeCommand {s : State} (h : s.Inv) : s.takeCommand.Inv := h.of_block rfl h.block

/-- Settles O55: each of the five things a step can do keeps the invariant. -/
theorem stepKeepsInvariant : Obligations.StepKeepsInvariant := by
  intro s t h hstep
  obtain ⟨-, heq⟩ | ⟨-, -, -, heq⟩ | ⟨-, -, heq⟩ | ⟨_, _, i, -, -, -, -, heq⟩ | ⟨_, _, _, -, -, -, -, heq⟩ :=
    step_cases s <;> rw [heq] at hstep
  · cases hstep
  · cases hstep
    exact h
  · cases hstep
    exact h.of_block rfl (h.block.eval h.config)
  · exact exec_inv i h.takeCommand hstep
  · cases hstep
    exact h.takeCommand.rejectIllegal

end Sys2Proof.Machine

/-! PROOFS. The order of the Host and the Sequencer: which command is taken ahead of `EVAL` (R15, R71, R340). -/

namespace Sys2Proof.Machine

/-! ### The opcode of a decoded word (R80, R82) -/

/-- A word that decodes to a command holds that command's opcode: each branch of the decoder that answers a command is
entered by the test for its opcode. -/
theorem opOf_of_decode {w : CmdWord} {i : Instr} (h : decode w = .command i) : opOf w = opcode i := by
  simp only [decode, decodeBare] at h
  split_ifs at h
  all_goals
    cases h
    assumption

/-- Of the seven commands, `RDREG` and `SRESET` are those that are not held while BUSY (R340). -/
theorem heldOpcode_opcode (i : Instr) : heldOpcode (opcode i) = false ↔ i = .sreset ∨ ∃ idx, i = .rdreg idx := by
  cases i <;> simp [heldOpcode, opcode, opNop, opFeed, opSetnow, opPop, opRdreg, opClrstat, opSreset]

/-! ### Which agent steps (R15, R71, R340) -/

/-- A block that is not BUSY takes whatever is presented. -/
theorem Block.takes_of_not_busy {b : Block} (h : b.busy = false) (p : Presentation) : b.takes p = true := by
  simp [Block.takes, h]

/-- A BUSY block takes what is not held and is presented ahead of `EVAL`. -/
theorem Block.takes_of_busy {b : Block} (h : b.busy = true) (p : Presentation) :
    b.takes p = (!heldOpcode (opOf p.word) && p.ahead) := by
  simp [Block.takes, h]

/-- `EVAL` ends with the block not BUSY (R140). -/
@[simp] theorem Block.busy_eval (cfg : Config) (b : Block) : (b.eval cfg).busy = false := rfl

section step
variable {s : State} {p : Presentation} {rest : List Presentation}

/-- A command that is taken leaves the port and is executed (R268). -/
theorem step_of_takes {i : Instr} (hwf : s.cfg.wf = true) (hport : s.host.pending = p :: rest)
    (htakes : s.block.takes p = true) (hdec : decode p.word = .command i) : step s = exec i s.takeCommand := by
  simp [step, nextAction, portAction, hwf, hport, htakes, hdec]

/-- A command that is not taken stays at the port, and the Sequencer steps (R340). -/
theorem step_of_not_takes (hwf : s.cfg.wf = true) (hport : s.host.pending = p :: rest)
    (htakes : s.block.takes p = false) : step s = .next s.evaluate := by
  simp [step, nextAction, hwf, hport, htakes]

end step

/-- Settles O23: while BUSY the presentation's bit decides whether the command is taken, and after `EVAL` the block is not
BUSY, so the command that waited is taken then. -/
theorem bothOrdersAdmitted : Obligations.BothOrdersAdmitted := by
  intro s w rest i hwf hready hdec hkind
  have hbusy : s.block.busy = true := s.block.busy_iff.mpr hready
  have hfree : heldOpcode (opOf w) = false := by
    rw [opOf_of_decode hdec]
    exact (heldOpcode_opcode i).mpr hkind
  have htakes (ahead : Bool) : s.block.takes ⟨w, ahead⟩ = ahead := by
    simp [Block.takes_of_busy hbusy, hfree]
  exact ⟨step_of_takes hwf rfl (htakes true) hdec,
    step_of_not_takes hwf rfl (htakes false),
    step_of_takes hwf rfl (Block.takes_of_not_busy (Block.busy_eval _ _) _) hdec⟩

end Sys2Proof.Machine

/-! PROOFS. The encoding (R80 to R84): the decoder opcode by opcode, which words it accepts and which it rejects, and the
encoder as its inverse. Then the assembler's commands (R94, R95), the checksum text of a `TELEGRAM` (R95, R141), the Sample
record (R87), and one response per command (R81). -/

namespace Sys2Proof

/-! ### The fields of a command word (R80, R83) -/

/-- A word is its opcode field above its argument field. -/
theorem opOf_append_argOf (w : CmdWord) : (opOf w ++ argOf w : CmdWord) = w :=
  BitVec.extractLsb'_append_extractLsb'

/-- An argument is a zero-extended byte exactly when its must-be-zero bits are 0 and its low byte is that byte. -/
theorem eq_setWidth_iff (arg : Word) (b : Byte) : arg = b.setWidth 64 ↔ argHigh arg = 0#56 ∧ argByte arg = b := by
  constructor
  · rintro rfl
    exact ⟨Laws.argHigh_setWidth b, Laws.argByte_setWidth b⟩
  · rintro ⟨hhigh, rfl⟩
    have hfields : argHigh arg ++ argByte arg = arg := BitVec.extractLsb'_append_extractLsb'
    calc arg
      _ = argHigh arg ++ argByte arg := hfields.symm
      _ = 0#56 ++ argByte arg := by rw [hhigh]
      _ = (argByte arg).setWidth 64 := (BitVec.setWidth_eq_append (by decide)).symm

/-! ### The decoder, opcode by opcode (R82) -/

/-- The opcode map has seven rows and a reserved range. -/
theorem opcode_cases (op : Byte) :
    op = opNop ∨ op = opFeed ∨ op = opSetnow ∨ op = opPop ∨ op = opRdreg ∨ op = opClrstat ∨ op = opSreset ∨
      7 ≤ op.toNat := by
  unfold opNop opFeed opSetnow opPop opRdreg opClrstat opSreset
  bv_omega

section decode
variable {w : CmdWord}

theorem decode_of_opNop (h : opOf w = opNop) : decode w = decodeBare .nop (argOf w) := by
  simp [decode, h]

theorem decode_of_opFeed (h : opOf w = opFeed) :
    decode w = if argHigh (argOf w) = 0#56 then .command (.feed (argByte (argOf w))) else .illegal .mustBeZero := by
  simp [decode, h, opNop, opFeed]

theorem decode_of_opSetnow (h : opOf w = opSetnow) :
    decode w = if timeLegal (argOf w) then .command (.setnow (argOf w)) else .illegal .reservedTime := by
  simp [decode, h, opNop, opFeed, opSetnow]

theorem decode_of_opPop (h : opOf w = opPop) : decode w = decodeBare .pop (argOf w) := by
  simp [decode, h, opNop, opFeed, opSetnow, opPop]

theorem decode_of_opRdreg (h : opOf w = opRdreg) :
    decode w = if argHigh (argOf w) = 0#56 then
        if indexLegal (argByte (argOf w)) then .command (.rdreg (argByte (argOf w))) else .illegal .reservedIndex
      else .illegal .mustBeZero := by
  simp [decode, h, opNop, opFeed, opSetnow, opPop, opRdreg]

theorem decode_of_opClrstat (h : opOf w = opClrstat) : decode w = decodeBare .clrstat (argOf w) := by
  simp [decode, h, opNop, opFeed, opSetnow, opPop, opRdreg, opClrstat]

theorem decode_of_opSreset (h : opOf w = opSreset) : decode w = decodeBare .sreset (argOf w) := by
  simp [decode, h, opNop, opFeed, opSetnow, opPop, opRdreg, opClrstat, opSreset]

theorem decode_of_reserved (h : 7 ≤ (opOf w).toNat) : decode w = .illegal .reservedOpcode := by
  have hne {op : Byte} (hop : op.toNat < 7) : opOf w ≠ op := by
    rintro rfl
    omega
  have hdefined : opNop.toNat < 7 ∧ opFeed.toNat < 7 ∧ opSetnow.toNat < 7 ∧ opPop.toNat < 7 ∧ opRdreg.toNat < 7 ∧
      opClrstat.toNat < 7 ∧ opSreset.toNat < 7 := by decide
  simp [decode, hne, hdefined]

end decode

/-- A command without operand is accepted with the argument 0 only (R84 item 3). -/
theorem decodeBare_eq_command (i : Instr) (arg : Word) : decodeBare i arg = .command i ↔ arg = 0#64 := by
  simp [decodeBare]

theorem exists_decodeBare_eq_illegal (i : Instr) (arg : Word) :
    (∃ why, decodeBare i arg = .illegal why) ↔ arg ≠ 0#64 := by
  by_cases h : arg = 0#64 <;> simp [decodeBare, h]

/-! ### The words of a command (R80, R82, R84) -/

@[simp] theorem wf_setnow (t : Word) : (Instr.setnow t).wf = timeLegal t := rfl

@[simp] theorem wf_rdreg (idx : Byte) : (Instr.rdreg idx).wf = indexLegal idx := rfl

/-- Under a command's own opcode, the decoder answers the command exactly for its operand, if the operand is legal. -/
theorem decode_eq_command_of_opcode {w : CmdWord} {i : Instr} (hop : opOf w = opcode i) :
    decode w = .command i ↔ argOf w = operand i ∧ i.wf = true := by
  cases i with
  | nop => simp [decode_of_opNop hop, decodeBare_eq_command, operand, Instr.wf]
  | feed b =>
    rw [decode_of_opFeed hop, operand, eq_setWidth_iff]
    split_ifs with hhigh <;> simp [hhigh, Instr.wf]
  | setnow t =>
    rw [decode_of_opSetnow hop, operand, wf_setnow]
    cases htime : timeLegal (argOf w) <;> simpa using fun harg : argOf w = t => harg ▸ htime
  | pop => simp [decode_of_opPop hop, decodeBare_eq_command, operand, Instr.wf]
  | rdreg idx =>
    rw [decode_of_opRdreg hop, operand, eq_setWidth_iff, wf_rdreg]
    by_cases hhigh : argHigh (argOf w) = 0#56
    · cases hidx : indexLegal (argByte (argOf w)) <;>
        simpa [hhigh] using fun harg : argByte (argOf w) = idx => harg ▸ hidx
    · simp [hhigh]
  | clrstat => simp [decode_of_opClrstat hop, decodeBare_eq_command, operand, Instr.wf]
  | sreset => simp [decode_of_opSreset hop, decodeBare_eq_command, operand, Instr.wf]

/-- The words that decode to a command: its opcode, its operand, and the operand legal. -/
theorem decode_eq_command_iff (w : CmdWord) (i : Instr) :
    decode w = .command i ↔ opOf w = opcode i ∧ argOf w = operand i ∧ i.wf = true := by
  constructor
  · intro h
    have hop : opOf w = opcode i := Machine.opOf_of_decode h
    exact ⟨hop, (decode_eq_command_of_opcode hop).mp h⟩
  · rintro ⟨hop, h⟩
    exact (decode_eq_command_of_opcode hop).mpr h

/-- Settles O17: the encoder fills the two fields by which the decoder knows a command. -/
theorem decodeInvertsEncode : Obligations.DecodeInvertsEncode := by
  intro i hwf
  obtain ⟨hop, harg⟩ := Laws.fields_of_append (opcode i) (operand i)
  exact (decode_eq_command_iff _ i).mpr ⟨hop, harg, hwf⟩

/-- Settles O18: a word is its two fields, and those of a decoded word are the command's opcode and operand. -/
theorem encodeInvertsDecode : Obligations.EncodeInvertsDecode := by
  intro w i h
  obtain ⟨hop, harg, hwf⟩ := (decode_eq_command_iff w i).mp h
  have hword : encode i = w := by rw [encode, ← hop, ← harg, opOf_append_argOf]
  exact ⟨hword, hwf⟩

/-- Settles O19, by the rows of the opcode map: under each opcode at most one item of R84 can hold besides the reserved
range. -/
theorem illegalWordsExactly : Obligations.IllegalWordsExactly := by
  intro w
  change (∃ why, decode w = .illegal why) ↔
    7 ≤ (opOf w).toNat ∨
    ((opOf w = 1#8 ∨ opOf w = 4#8) ∧ argHigh (argOf w) ≠ 0#56) ∨
    ((opOf w = 0#8 ∨ opOf w = 3#8 ∨ opOf w = 5#8 ∨ opOf w = 6#8) ∧ argOf w ≠ 0#64) ∨
    (opOf w = 2#8 ∧ argOf w = 0xFFFFFFFFFFFFFFFF#64) ∨
    (opOf w = 4#8 ∧ 15 ≤ (argByte (argOf w)).toNat)
  obtain h | h | h | h | h | h | h | h := opcode_cases (opOf w)
  · simp [decode_of_opNop h, exists_decodeBare_eq_illegal, h, opNop]
  · rw [decode_of_opFeed h]
    by_cases hhigh : argHigh (argOf w) = 0#56 <;> simp [hhigh, h, opFeed]
  · rw [decode_of_opSetnow h]
    by_cases htime : argOf w = 0xFFFFFFFFFFFFFFFF#64 <;> simp [htime, timeLegal, h, opSetnow]
  · simp [decode_of_opPop h, exists_decodeBare_eq_illegal, h, opPop]
  · rw [decode_of_opRdreg h]
    by_cases hhigh : argHigh (argOf w) = 0#56
    · by_cases hidx : (argByte (argOf w)).toNat < 15
      · simp [hhigh, indexLegal, hidx, h, opRdreg]
      · simp [hhigh, indexLegal, hidx, Nat.not_lt.mp hidx, h, opRdreg]
    · simp [hhigh, h, opRdreg]
  · simp [decode_of_opClrstat h, exists_decodeBare_eq_illegal, h, opClrstat]
  · simp [decode_of_opSreset h, exists_decodeBare_eq_illegal, h, opSreset]
  · simp [decode_of_reserved h, h]

/-- The decoder reads back any word that is a legal command's encoding. -/
theorem decode_of_encode_eq {w : CmdWord} {i : Instr} (hword : encode i = w) (hwf : i.wf = true) :
    decode w = .command i :=
  hword ▸ decodeInvertsEncode i hwf

/-- Settles O16: each word is the encoding of its command, and the operands are legal. -/
theorem encodedWordsDecode : Obligations.EncodedWordsDecode :=
  ⟨decode_of_encode_eq (by decide) rfl, decode_of_encode_eq (by decide) rfl, decode_of_encode_eq (by decide) (by decide),
    decode_of_encode_eq (by decide) rfl, decode_of_encode_eq (by decide) (by decide), decode_of_encode_eq (by decide) rfl,
    decode_of_encode_eq (by decide) rfl⟩

end Sys2Proof

namespace Sys2Proof.Machine

/-! ### The assembler (R94, R95) -/

/-- A conditional answers what one of its branches answers. -/
theorem eq_or_eq_of_ite_eq {α : Type} {c : Prop} [Decidable c] {a b x : α} (h : (if c then a else b) = x) :
    a = x ∨ b = x := by
  split at h
  · exact .inl h
  · exact .inr h

theorem bareLine_eq_some {is js : List Instr} {arg : List Char} (h : bareLine is arg = some js) : js = is := by
  unfold bareLine at h
  split at h
  · exact (Option.some.inj h).symm
  · cases h

/-- `SETNOW` assembles for a legal time only (R84 item 4, R94). -/
theorem timeLegal_of_parseTime {cs : List Char} {t : Word} (h : parseTime cs = some t) : timeLegal t = true := by
  obtain ⟨v, -, hv⟩ := Option.bind_eq_some_iff.mp h
  split at hv
  next hlegal =>
    cases hv
    exact hlegal.2
  next => cases hv

/-- `RDREG` assembles for the index of a register only: there are 15 names, and a number is below 15 (R40, R94). -/
theorem indexLegal_of_parseIndex {cs : List Char} {idx : Byte} (h : parseIndex cs = some idx) :
    indexLegal idx = true := by
  have hlegal {i : Nat} (hi : i < 15) : indexLegal (BitVec.ofNat 8 i) = true := by
    simp [indexLegal]
    omega
  unfold parseIndex at h
  split at h
  next i hname =>
    cases h
    obtain ⟨hi, -⟩ := List.findIdx?_eq_some_iff_getElem.mp hname
    exact hlegal hi
  next =>
    obtain ⟨v, -, hv⟩ := Option.bind_eq_some_iff.mp h
    split at hv
    next hlt =>
      cases hv
      exact hlegal hlt
    next => cases hv

theorem wf_of_mem_feedsOf {text : List Byte} {i : Instr} (h : i ∈ feedsOf text) : i.wf = true := by
  obtain ⟨b, -, rfl⟩ := List.mem_map.mp h
  rfl

theorem wf_of_mem_telegramOf {body : List Byte} {is : List Instr} {i : Instr} (h : telegramOf body = some is)
    (hi : i ∈ is) : i.wf = true := by
  unfold telegramOf at h
  split at h
  · cases h
    exact wf_of_mem_feedsOf hi
  · cases h

/-- A mnemonic with its operand stands for legal commands only; the cases follow `assembleOp`'s list of mnemonics. -/
theorem wf_of_mem_assembleOp {mnemonic arg : List Char} {is : List Instr} (h : assembleOp mnemonic arg = some is) :
    ∀ i ∈ is, i.wf = true := by
  have hbare {j : Instr} (hj : j.wf = true) (hline : bareLine [j] arg = some is) : ∀ i ∈ is, i.wf = true := by
    rw [bareLine_eq_some hline]
    simpa using hj
  unfold assembleOp at h
  obtain h | h := eq_or_eq_of_ite_eq h
  · exact hbare rfl h
  obtain h | h := eq_or_eq_of_ite_eq h
  · obtain ⟨b, -, rfl⟩ := Option.map_eq_some_iff.mp h
    simp [Instr.wf]
  obtain h | h := eq_or_eq_of_ite_eq h
  · obtain ⟨t, ht, rfl⟩ := Option.map_eq_some_iff.mp h
    simpa using timeLegal_of_parseTime ht
  obtain h | h := eq_or_eq_of_ite_eq h
  · exact hbare rfl h
  obtain h | h := eq_or_eq_of_ite_eq h
  · obtain ⟨idx, hidx, rfl⟩ := Option.map_eq_some_iff.mp h
    simpa using indexLegal_of_parseIndex hidx
  obtain h | h := eq_or_eq_of_ite_eq h
  · exact hbare rfl h
  obtain h | h := eq_or_eq_of_ite_eq h
  · exact hbare rfl h
  obtain h | h := eq_or_eq_of_ite_eq h
  · obtain ⟨text, -, rfl⟩ := Option.map_eq_some_iff.mp h
    exact fun _ => wf_of_mem_feedsOf
  obtain h | h := eq_or_eq_of_ite_eq h
  · obtain ⟨body, -, hbody⟩ := Option.bind_eq_some_iff.mp h
    exact fun _ => wf_of_mem_telegramOf hbody
  obtain h | h := eq_or_eq_of_ite_eq h
  · exact hbare rfl h
  · cases h

theorem wf_of_mem_assembleLine {line : List Char} {is : List Instr} (h : assembleLine line = some is) :
    ∀ i ∈ is, i.wf = true := by
  unfold assembleLine at h
  dsimp only at h
  split at h
  · cases h
    exact fun _ hi => absurd hi List.not_mem_nil
  · exact wf_of_mem_assembleOp h

/-- The words of a program are those of its first line and those of the rest. -/
theorem assemble_cons_eq_some {line : List Char} {lines : List (List Char)} {ws : List CmdWord}
    (h : assemble (line :: lines) = some ws) :
    ∃ is rest, assembleLine line = some is ∧ assemble lines = some rest ∧ ws = is.map encode ++ rest := by
  unfold assemble at h
  split at h
  next is rest hline hlines => exact ⟨is, rest, hline, hlines, (Option.some.inj h).symm⟩
  next => cases h

/-- Settles O58: each line's commands are legal by its mnemonic, and by induction on the lines every word is the encoding
of such a command, which decodes. -/
theorem assemblerNeverIllegal : Obligations.AssemblerNeverIllegal := by
  refine ⟨fun _ _ => wf_of_mem_assembleLine, fun lines => ?_⟩
  induction lines with
  | nil =>
    intro ws h w hw
    cases h
    exact absurd hw List.not_mem_nil
  | cons line lines ih =>
    intro ws h w hw
    obtain ⟨is, rest, hline, hlines, rfl⟩ := assemble_cons_eq_some h
    obtain hw | hw := List.mem_append.mp hw
    · obtain ⟨i, hi, rfl⟩ := List.mem_map.mp hw
      exact ⟨i, decodeInvertsEncode i (wf_of_mem_assembleLine hline i hi)⟩
    · exact ih rest hlines w hw

/-! ### The checksum text (R95, R141) -/

/-- `hexval` reads an upper-case hex digit as the digit. -/
theorem hexDigit_hexChar (d : BitVec 4) : hexDigit (hexChar d) = some d.toNat := by
  revert d
  decide

theorem hexChar_ne_terminator (d : BitVec 4) : hexChar d ≠ chCR ∧ hexChar d ≠ chLF := by
  revert d
  decide

theorem hexvalFrom_hexChar (v : Nat) (d : BitVec 4) (xs : List Byte) :
    hexvalFrom v (hexChar d :: xs) = hexvalFrom (v * 16 + d.toNat) xs := by
  simp only [hexvalFrom, hexDigit_hexChar]

/-- The four digits of `hex4` are the base-16 digits of the value. -/
theorem hexvalFrom_hex4 (v : BitVec 16) : hexvalFrom 0 (hex4 v) = v.toNat := by
  simp only [hex4, hexvalFrom_hexChar]
  simp only [hexvalFrom, BitVec.extractLsb'_toNat, Nat.shiftRight_eq_div_pow]
  omega

/-- Settles O59: digit by digit. -/
theorem checksumTextReadsBack : Obligations.ChecksumTextReadsBack := by
  intro v
  have hnot {x : Byte} (hx : ∀ d, hexChar d ≠ x) : x ∉ hex4 v := by
    simp [hex4, (hx _).symm]
  have hvalue : hexval (hex4 v) = v := by rw [hexval, hexvalFrom_hex4, BitVec.ofNat_toNat, BitVec.setWidth_eq]
  exact ⟨hvalue, rfl, hnot fun d => (hexChar_ne_terminator d).1, hnot fun d => (hexChar_ne_terminator d).2⟩

/-! ### The Sample record (R87) -/

/-- Where each element of a list gives three words, the words of element `k` stand from place `3 * k` on. -/
theorem getElem?_flatMap_three {α β : Type} (f g h : α → β) (l : List α) (k : Nat) :
    (l.flatMap fun x => [f x, g x, h x])[3 * k]? = l[k]?.map f ∧
    (l.flatMap fun x => [f x, g x, h x])[3 * k + 1]? = l[k]?.map g ∧
    (l.flatMap fun x => [f x, g x, h x])[3 * k + 2]? = l[k]?.map h := by
  induction l generalizing k with
  | nil => simp
  | cons x xs ih =>
    cases k with
    | zero => simp
    | succ k => simpa [Nat.mul_succ] using ih k

/-- The energies of a Sample stand behind its two head words. -/
theorem record_getElem?_energy (s : Sample) (i : Fin 5) : s.record[2 + i.val]? = some s.e[i] := by
  rw [show 2 + i.val = i.val + 1 + 1 by omega, Sample.record, List.getElem?_cons_succ, List.getElem?_cons_succ,
    List.getElem?_append_left (by simp)]
  simp

/-- The summaries of a Sample stand behind its two head words and its five energies. -/
theorem record_getElem?_summary (s : Sample) (i : Nat) :
    s.record[7 + i]? = (s.m.toList.flatMap fun x => [x.min, x.avg, x.max])[i]? := by
  rw [show 7 + i = 5 + i + 1 + 1 by omega, Sample.record, List.getElem?_cons_succ, List.getElem?_cons_succ,
    List.getElem?_append_right (by simp)]
  simp

/-- Settles O14: the energies by their place, the summaries by threes. -/
theorem sampleRecordLayout : Obligations.SampleRecordLayout := by
  intro s
  refine ⟨by simp [Sample.record], rfl, rfl, record_getElem?_energy s, fun k => ?_⟩
  obtain ⟨hmin, havg, hmax⟩ := getElem?_flatMap_three Summary.min Summary.avg Summary.max s.m.toList k
  refine ⟨?_, ?_, ?_⟩
  · rw [record_getElem?_summary, hmin]
    simp
  · rw [show 8 + 3 * k.val = 7 + (3 * k.val + 1) by omega, record_getElem?_summary, havg]
    simp
  · rw [show 9 + 3 * k.val = 7 + (3 * k.val + 2) by omega, record_getElem?_summary, hmax]
    simp

/-! ### One response per command (R81) -/

/-- What a command does where it is accepted with a legal operand (R131, R238, R260 to R265). -/
def effectOf : Instr → State → State
  | .nop => answerOk
  | .feed b => takeByte b
  | .setnow t => setTime t
  | .pop => popSample
  | .rdreg idx => answerReg idx
  | .clrstat => clearCounters
  | .sreset => softReset

/-- Every command is `ACCEPT` with its opcode, the legality of its operand and its effect (R268). -/
theorem exec_eq_accept (i : Instr) (s : State) :
    exec i s = .next (accept (opcode i) i.wf (effectOf i) s) := by
  cases i <;> rfl

/-- A command that is taken is not held (R268, R340). -/
theorem Block.holds_of_takes {b : Block} {p : Presentation} (h : b.takes p = true) : b.holds (opOf p.word) = false := by
  cases hbusy : b.busy
  · exact Block.holds_of_not_busy hbusy _
  · rw [Block.takes_of_busy hbusy] at h
    obtain ⟨hfree, -⟩ : heldOpcode (opOf p.word) = false ∧ p.ahead = true := by simpa using h
    simp [Block.holds, hfree]

/-- The Host's side after one response: the commands still to come are the same, and there is one response more (R81). -/
def State.AddsResponse (s t : State) : Prop :=
  ∃ r, t.host = { s.host with responses := r :: s.host.responses }

theorem addsResponse_rejectIllegal (s : State) : s.AddsResponse s.rejectIllegal := ⟨_, rfl⟩

/-- Every effect gives exactly one response. -/
theorem addsResponse_effectOf (i : Instr) (s : State) : s.AddsResponse (effectOf i s) := by
  cases i with
  | feed b =>
    change s.AddsResponse (takeByte b s)
    unfold takeByte
    split <;> exact ⟨_, rfl⟩
  | pop =>
    change s.AddsResponse (popSample s)
    unfold popSample
    split <;> exact ⟨_, rfl⟩
  | nop | setnow | rdreg | clrstat | sreset => exact ⟨_, rfl⟩

/-- A command that is not held gives exactly one response (R81). -/
theorem addsResponse_of_exec {i : Instr} {s t : State} (hfree : s.block.holds (opcode i) = false)
    (hexec : exec i s = .next t) : s.AddsResponse t := by
  rw [exec_eq_accept] at hexec
  cases hexec
  obtain ⟨hheld, -⟩ | ⟨-, -, heq⟩ | ⟨-, -, heq⟩ := accept_cases (opcode i) i.wf (effectOf i) s
  · exact absurd (hfree.symm.trans hheld) Bool.noConfusion
  · exact heq ▸ addsResponse_effectOf i s
  · exact heq ▸ addsResponse_rejectIllegal s

/-- A response to the command just taken from the port is the one response of the step. -/
theorem takesOne_of_addsResponse {s t : State} {p : Presentation} {rest : List Presentation}
    (hport : s.host.pending = p :: rest) (h : s.takeCommand.AddsResponse t) :
    ∃ p r, s.host.pending = p :: t.host.pending ∧ t.host.responses = r :: s.host.responses := by
  obtain ⟨r, hhost⟩ := h
  exact ⟨p, r, by simp [hhost, hport], by simp [hhost]⟩

/-- Settles O24: `EVAL` and rest leave the Host's side alone; the port gives one response to the command it takes. -/
theorem oneResponsePerCommand : Obligations.OneResponsePerCommand := by
  intro s t hstep
  obtain ⟨-, heq⟩ | ⟨-, -, -, heq⟩ | ⟨-, -, heq⟩ | ⟨p, rest, i, -, hport, htakes, hdec, heq⟩ |
    ⟨p, rest, why, -, hport, -, -, heq⟩ := step_cases s <;> rw [heq] at hstep
  · cases hstep
  · cases hstep
    exact .inl rfl
  · cases hstep
    exact .inl rfl
  · have hfree : s.takeCommand.block.holds (opcode i) = false := by
      rw [← opOf_of_decode hdec]
      exact Block.holds_of_takes htakes
    exact .inr (takesOne_of_addsResponse hport (addsResponse_of_exec hfree hstep))
  · cases hstep
    exact .inr (takesOne_of_addsResponse hport (addsResponse_rejectIllegal _))

end Sys2Proof.Machine

/-! PROOFS. The Checksum Engine: the checksum as byte steps (R111, R112), its linearity, and the changes it detects (R117). -/

namespace Sys2Proof.Machine

/-! ### The checksum as byte steps (R111, R112) -/

@[simp] theorem crc16_append (s t : List Byte) : crc16 (s ++ t) = t.foldl crcStep (crc16 s) :=
  List.foldl_append

/-- Settles O31: the byte step and the start value by definition, the last byte as the fold's last step, the check value by
evaluation. -/
theorem crcExtendsByStep : Obligations.CrcExtendsByStep :=
  ⟨fun _ _ => rfl, crc16_nil, fun s b => crc16_append s [b], by decide +kernel⟩

/-! ### Linearity (R117) -/

/-- A shift XORs in the polynomial or nothing, by the bit that leaves. -/
theorem crcShift_eq (c : BitVec 16) :
    crcShift c = (c >>> 1) ^^^ (if c.getLsbD 0 then 0xA001#16 else 0#16) := by
  unfold crcShift
  split <;> simp

theorem crcShift_xor (c d : BitVec 16) : crcShift (c ^^^ d) = crcShift c ^^^ crcShift d := by
  have hpoly : (if (c ^^^ d).getLsbD 0 then 0xA001#16 else 0#16) =
      (if c.getLsbD 0 then 0xA001#16 else 0#16) ^^^ (if d.getLsbD 0 then 0xA001#16 else 0#16) := by
    rw [BitVec.getLsbD_xor]
    cases c.getLsbD 0 <;> cases d.getLsbD 0 <;> rfl
  simp only [crcShift_eq, hpoly, BitVec.ushiftRight_xor_distrib]
  ac_rfl

theorem repeat_crcShift_xor (n : Nat) (c d : BitVec 16) :
    Nat.repeat crcShift n (c ^^^ d) = Nat.repeat crcShift n c ^^^ Nat.repeat crcShift n d := by
  induction n with
  | zero => rfl
  | succ n ih => simp only [Nat.repeat, ih, crcShift_xor]

theorem crcStep_xor (c d : BitVec 16) (x y : Byte) :
    crcStep (c ^^^ d) (x ^^^ y) = crcStep c x ^^^ crcStep d y := by
  rw [crcStep, crcStep, crcStep, ← repeat_crcShift_xor, BitVec.setWidth_xor]
  congr 1
  ac_rfl

/-- Linearity from any two registers: the generalisation over the register that the induction on the bytes needs. -/
theorem foldl_crcStep_xor {s t : List Byte} (hlen : s.length = t.length) (c d : BitVec 16) :
    (List.zipWith (· ^^^ ·) s t).foldl crcStep (c ^^^ d) = s.foldl crcStep c ^^^ t.foldl crcStep d := by
  induction s generalizing t c d with
  | nil => simp [List.eq_nil_of_length_eq_zero hlen.symm]
  | cons x s ih =>
    cases t with
    | nil => cases hlen
    | cons y t =>
      rw [List.zipWith_cons_cons, List.foldl_cons, crcStep_xor]
      exact ih (Nat.succ.inj hlen) _ _

/-! ### Detection of a changed byte (R117) -/

/-- Only the zero register shifts to zero: a low bit that leaves sets the top bit, and otherwise no bit is lost. -/
theorem eq_zero_of_crcShift_eq_zero {c : BitVec 16} (h : crcShift c = 0#16) : c = 0#16 := by
  cases hlow : c.getLsbD 0 with
  | true =>
    have htop : (crcShift c).getLsbD 15 = true := by simp [crcShift, hlow]
    rw [h] at htop
    cases htop
  | false =>
    have hshift : c >>> 1 = 0#16 := by rwa [crcShift, hlow, if_neg Bool.false_ne_true] at h
    refine BitVec.eq_of_getLsbD_eq fun i _ => ?_
    cases i with
    | zero => rw [hlow, BitVec.getLsbD_zero]
    | succ i => rw [Nat.add_comm, ← BitVec.getLsbD_ushiftRight, hshift, BitVec.getLsbD_zero, BitVec.getLsbD_zero]

theorem crcShift_injective : Function.Injective crcShift := fun c d h =>
  BitVec.xor_eq_zero_iff.mp <| eq_zero_of_crcShift_eq_zero <| by rw [crcShift_xor, h, BitVec.xor_self]

theorem repeat_crcShift_injective (n : Nat) : Function.Injective (Nat.repeat crcShift n) := by
  induction n with
  | zero => exact Function.injective_id
  | succ n ih => exact crcShift_injective.comp ih

theorem crcStep_register_injective (x : Byte) : Function.Injective (crcStep · x) := fun _ _ h =>
  (BitVec.xor_left_inj _).mp (repeat_crcShift_injective 8 h)

theorem crcStep_byte_injective (c : BitVec 16) : Function.Injective (crcStep c) := fun x y h => by
  have hwide : x.setWidth 16 = y.setWidth 16 :=
    (BitVec.xor_right_inj c).mp (repeat_crcShift_injective 8 h)
  bv_omega

/-- Equal bytes behind two different registers keep them different. -/
theorem foldl_crcStep_injective (s : List Byte) : Function.Injective (s.foldl crcStep) := by
  induction s with
  | nil => exact Function.injective_id
  | cons x s ih => exact ih.comp (crcStep_register_injective x)

/-- Settles O32: linearity starts from the zero register; a changed byte gives another register, and the bytes behind it
keep the registers apart. -/
theorem crcDetectsByteChange : Obligations.CrcDetectsByteChange := by
  refine ⟨fun s t hlen => foldl_crcStep_xor hlen 0#16 0#16, fun pre post x d hd => ?_⟩
  rw [crc16_append, crc16_append, ne_eq, BitVec.xor_eq_zero_iff]
  intro hsame
  have hbyte : x ^^^ 0#8 = x ^^^ d :=
    BitVec.xor_zero.trans (crcStep_byte_injective _ (foldl_crcStep_injective post hsame))
  exact hd ((BitVec.xor_right_inj x).mp hbyte).symm

end Sys2Proof.Machine

/-! PROOFS. The Frame Decoder: a byte in each of its states (R131 to R138) and what `FEED` makes of it, the received checksum
(R141), `EVAL` (R140 to R144), and whole frames at the command port (R147, R148). -/

namespace Sys2Proof.Machine

/-! ### A byte into the decoder (R131 to R138) -/

section feedByte
variable {cfg : Config} {b : Block} {x : Byte}

theorem Block.feedByte_slash (h : b.fsm = .idle) :
    b.feedByte cfg chSlash = { b with fsm := .capturing, cap := [chSlash] } := by
  simp only [Block.feedByte, h]
  rfl

theorem Block.feedByte_idle (h : b.fsm = .idle) (hx : x ≠ chSlash) : b.feedByte cfg x = b := by
  simp only [Block.feedByte, h, Block.stepIdle, if_neg hx]

/-- A full buffer is found before the byte is looked at (R134). -/
theorem Block.feedByte_full (h : b.fsm = .capturing) (hfull : b.cap.length = cfg.cap) :
    b.feedByte cfg x = { b with fsm := .idle, cap := [], cnt := b.cnt.set 2 (b.cnt[2] + 1#32) } := by
  simp only [Block.feedByte, h, Block.stepCapture, if_pos hfull]
  rfl

theorem Block.feedByte_bang (h : b.fsm = .capturing) (hroom : b.cap.length ≠ cfg.cap) :
    b.feedByte cfg chBang = { b with fsm := .readingChecksum, cap := b.cap ++ [chBang], ck := [] } := by
  simp only [Block.feedByte, h, Block.stepCapture, if_neg hroom]
  rfl

theorem Block.feedByte_capture (h : b.fsm = .capturing) (hroom : b.cap.length ≠ cfg.cap) (hx : x ≠ chBang) :
    b.feedByte cfg x = { b with cap := b.cap ++ [x] } := by
  simp only [Block.feedByte, h, Block.stepCapture, if_neg hroom, if_neg hx]
  rw [← h]
  rfl

theorem Block.feedByte_terminator (h : b.fsm = .readingChecksum) (hx : x = chCR ∨ x = chLF) :
    b.feedByte cfg x = { b with fsm := .ready } := by
  simp only [Block.feedByte, h, Block.stepChecksum, if_pos hx]

/-- A stored byte of the checksum text: the fourth ends the text (R137, R138). -/
theorem Block.feedByte_checksum (h : b.fsm = .readingChecksum) (hCR : x ≠ chCR) (hLF : x ≠ chLF) :
    b.feedByte cfg x =
      { b with fsm := if b.ck.length = 3 then .ready else .readingChecksum, ck := b.ck ++ [x] } := by
  have hlen : (b.ck ++ [x]).length = 4 ↔ b.ck.length = 3 := by simp
  simp only [Block.feedByte, h, Block.stepChecksum, hCR, hLF, or_self, if_false, hlen]
  split
  · rfl
  · rw [← h]

/-- A byte finds the decoder in Ready as it was (R130). -/
theorem Block.feedByte_ready (h : b.fsm = .ready) : b.feedByte cfg x = b := by
  simp only [Block.feedByte, h]

end feedByte

/-! ### The command `FEED` (R131, R132) -/

/-- Outside Ready `FEED` is accepted: it is not held, and every byte is legal (R84, R340). -/
theorem exec_feed_of_not_ready {s : State} (h : s.block.fsm ≠ .ready) (x : Byte) :
    exec (.feed x) s = .next (takeByte x s) := by
  have hfree : s.block.holds opFeed = false :=
    Block.holds_of_not_busy (Bool.eq_false_iff.mpr (mt s.block.busy_iff.mp h)) opFeed
  rw [exec_eq_accept]
  simp [accept, opcode, hfree, Instr.wf, effectOf]

theorem takeByte_of_halted {s : State} (h : s.block.halted = true) (x : Byte) :
    takeByte x s = s.respond (bareResponse .halted) := if_pos h

theorem takeByte_of_running {s : State} (h : s.block.halted = false) (x : Byte) :
    takeByte x s = { s with block := s.block.feedByte s.cfg x }.respond (bareResponse .ok) :=
  if_neg (Bool.eq_false_iff.mp h)

/-- Outside Ready and not halted, `FEED` gives its byte to the decoder and answers OK (R131). -/
theorem exec_feed_of_running {s : State} (h : s.block.fsm ≠ .ready) (hrun : s.block.halted = false) (x : Byte) :
    exec (.feed x) s =
      .next ({ s with block := s.block.feedByte s.cfg x }.respond (bareResponse .ok)) := by
  rw [exec_feed_of_not_ready h, takeByte_of_running hrun]

/-- Settles O7: `FEED` is accepted, and its effect looks at `halted` first. -/
theorem feedRefusedWhileHalted : Obligations.FeedRefusedWhileHalted := by
  intro s x hfsm hhalted
  rw [exec_feed_of_not_ready hfsm, takeByte_of_halted hhalted]
  rfl

/-- Settles O8, by the decoder's two cases in Idle. -/
theorem feedInIdle : Obligations.FeedInIdle := by
  intro s x hidle hrun
  rw [exec_feed_of_running (by simp [hidle]) hrun]
  constructor
  · rintro rfl
    rw [Block.feedByte_slash hidle]
    rfl
  · intro hx
    rw [Block.feedByte_idle hidle hx]
    rfl

/-- Settles O9, by the decoder's three cases in Capturing. -/
theorem feedWhileCapturing : Obligations.FeedWhileCapturing := by
  intro s x hcapturing hrun
  rw [exec_feed_of_running (by simp [hcapturing]) hrun]
  refine ⟨fun hfull => ?_, ?_, fun hroom hx => ?_⟩
  · rw [Block.feedByte_full hcapturing hfull]
    rfl
  · rintro hroom rfl
    rw [Block.feedByte_bang hcapturing hroom]
    rfl
  · rw [Block.feedByte_capture hcapturing hroom hx]
    rfl

/-- Settles O10, by the decoder's two cases in ReadingChecksum. -/
theorem feedChecksumText : Obligations.FeedChecksumText := by
  intro s x hreading hrun _
  rw [exec_feed_of_running (by simp [hreading]) hrun]
  refine ⟨fun hend => ?_, fun hCR hLF => ?_⟩
  · rw [Block.feedByte_terminator hreading hend]
    rfl
  · rw [Block.feedByte_checksum hreading hCR hLF]
    rfl

/-! ### The received checksum (R141) -/

/-- A digit's value is below the base. -/
theorem hexDigit_lt {x : Byte} {d : Nat} (h : hexDigit x = some d) : d < 16 := by
  unfold hexDigit at h
  split_ifs at h <;> cases h <;> omega

theorem hexvalFrom_cons_digit {x : Byte} {d : Nat} (h : hexDigit x = some d) (v : Nat) (t : List Byte) :
    hexvalFrom v (x :: t) = hexvalFrom (v * 16 + d) t := by
  simp only [hexvalFrom, h]

theorem hexvalFrom_cons_stop {x : Byte} (h : hexDigit x = none) (v : Nat) (t : List Byte) :
    hexvalFrom v (x :: t) = v := by
  simp only [hexvalFrom, h]

/-- Behind digits the reading goes on from their value. -/
theorem hexvalFrom_append {t : List Byte} (ht : ∀ y ∈ t, (hexDigit y).isSome = true) (v : Nat) (u : List Byte) :
    hexvalFrom v (t ++ u) = hexvalFrom (hexvalFrom v t) u := by
  induction t generalizing v with
  | nil => rfl
  | cons y t ih =>
    obtain ⟨hy, ht⟩ := List.forall_mem_cons.mp ht
    obtain ⟨d, hd⟩ := Option.isSome_iff_exists.mp hy
    rw [List.cons_append, hexvalFrom_cons_digit hd, hexvalFrom_cons_digit hd, ih ht]

/-- Each byte multiplies the bound on the value by 16 at most. -/
theorem hexvalFrom_lt (v : Nat) (t : List Byte) : hexvalFrom v t < (v + 1) * 16 ^ t.length := by
  induction t generalizing v with
  | nil => simp [hexvalFrom]
  | cons x t ih =>
    rw [List.length_cons, Nat.pow_succ']
    have hpos : 0 < 16 ^ t.length := Nat.pow_pos (by decide)
    cases hx : hexDigit x with
    | none =>
      rw [hexvalFrom_cons_stop hx]
      calc v < v + 1 := Nat.lt_succ_self v
        _ ≤ (v + 1) * (16 * 16 ^ t.length) := Nat.le_mul_of_pos_right _ (Nat.mul_pos (by decide) hpos)
    | some d =>
      have hd := hexDigit_lt hx
      rw [hexvalFrom_cons_digit hx]
      calc hexvalFrom (v * 16 + d) t < (v * 16 + d + 1) * 16 ^ t.length := ih _
        _ ≤ ((v + 1) * 16) * 16 ^ t.length := Nat.mul_le_mul_right _ (by omega)
        _ = (v + 1) * (16 * 16 ^ t.length) := Nat.mul_assoc ..

/-- The value of a checksum text fits 16 bits, since the text has at most 4 bytes (R24, R141). -/
theorem hexval_toNat {t : List Byte} (h : t.length ≤ 4) : (hexval t).toNat = hexvalFrom 0 t := by
  have hlt : hexvalFrom 0 t < 2 ^ 16 :=
    calc hexvalFrom 0 t < (0 + 1) * 16 ^ t.length := hexvalFrom_lt 0 t
      _ ≤ (0 + 1) * 16 ^ 4 := Nat.mul_le_mul_left _ (Nat.pow_le_pow_right (by decide) h)
  rw [hexval, BitVec.toNat_ofNat, Nat.mod_eq_of_lt hlt]

/-- Settles O33: the digits by their ranges, the rest by reading on from the value of the digits before. -/
theorem hexvalReadsPrefix : Obligations.HexvalReadsPrefix := by
  refine ⟨fun x => ?_, fun t ht => hexval_toNat ht, rfl, fun t x d ht hx => ?_, fun t u x ht hx => ?_⟩
  · refine ⟨fun hlo hhi => ?_, fun hlo hhi => ?_, fun hlo hhi => ?_, fun h0 hA ha => ?_⟩ <;> unfold hexDigit
    · rw [if_pos ⟨hlo, hhi⟩]
    · rw [if_neg (by omega), if_pos ⟨hlo, hhi⟩]
    · rw [if_neg (by omega), if_neg (by omega), if_pos ⟨hlo, hhi⟩]
    · rw [if_neg h0, if_neg hA, if_neg ha]
  · rw [hexvalFrom_append ht, hexvalFrom_cons_digit hx]
    rfl
  · rw [hexvalFrom_append ht, hexvalFrom_cons_stop hx]

/-! ### `EVAL` (R140 to R144) -/

/-- `WINDOW_SELECT` writes the window, the accumulator, the ring and the counters, nothing else (R200 to R207). -/
theorem Block.selectWindow_frame (cfg : Config) (t : Word) (b : Block) :
    ∃ winActive winBucket acc slots rd wr cnt,
      b.selectWindow cfg t =
        { b with
          winActive := winActive, winBucket := winBucket, acc := acc
          slots := slots, rd := rd, wr := wr, cnt := cnt } := by
  obtain ⟨-, heq⟩ | ⟨-, -, heq⟩ | ⟨-, -, heq⟩ := b.selectWindow_cases cfg t <;> rw [heq]
  · exact ⟨_, _, _, _, _, _, _, rfl⟩
  · obtain ⟨slots, rd, wr, cnt, hframe⟩ := b.finalize_frame cfg
    rw [hframe]
    exact ⟨_, _, _, slots, rd, wr, cnt, rfl⟩
  · exact ⟨_, _, _, _, _, _, _, rfl⟩

/-- `PARSE` leaves the decoder's elements, the time and the recorded checksums (R144, R160). -/
theorem Block.parse_keeps (cfg : Config) (tel : List Byte) (t : Word) (b : Block) :
    (b.parse cfg tel t).cap = b.cap ∧ (b.parse cfg tel t).ck = b.ck ∧ (b.parse cfg tel t).now = b.now ∧
      (b.parse cfg tel t).lastCrc = b.lastCrc := by
  obtain ⟨_, _, _, _, _, _, _, hselect⟩ := b.selectWindow_frame cfg t
  obtain ⟨_, _, _, hlines⟩ := Block.parseLines_frame cfg (splitLF tel) (b.selectWindow cfg t)
  rw [Block.parse, hlines, hselect]
  exact ⟨rfl, rfl, rfl, rfl⟩

/-- Settles O28: the mismatch case of `EVAL`. -/
theorem evalDropsMismatch : Obligations.EvalDropsMismatch := by
  intro cfg b hne
  obtain ⟨-, heq⟩ | ⟨hmatch, -⟩ := b.eval_cases cfg
  · rw [heq]
    rfl
  · exact absurd hmatch hne

/-- Settles O29: the match case of `EVAL`, and what `PARSE` leaves. -/
theorem evalParsesMatch : Obligations.EvalParsesMatch := by
  intro cfg b hmatch
  obtain ⟨hne, -⟩ | ⟨-, heq⟩ := b.eval_cases cfg
  · exact absurd hmatch hne
  · obtain ⟨hcap, hck, hnow, hcrc⟩ := Block.parse_keeps cfg b.cap b.now (b.recordCrc.raise .frameOk)
    rw [heq]
    exact ⟨rfl, rfl, hcap, hck, hnow, hcrc⟩

/-! ### Many bytes into the decoder (R146, R148) -/

/-- The decoder after a sequence of bytes. -/
def Block.feedBytes (cfg : Config) (xs : List Byte) (b : Block) : Block := xs.foldl (fun b x => b.feedByte cfg x) b

@[simp] theorem Block.feedBytes_nil (cfg : Config) (b : Block) : b.feedBytes cfg [] = b := rfl

@[simp] theorem Block.feedBytes_cons (cfg : Config) (x : Byte) (xs : List Byte) (b : Block) :
    b.feedBytes cfg (x :: xs) = (b.feedByte cfg x).feedBytes cfg xs := rfl

@[simp] theorem Block.feedBytes_append (cfg : Config) (xs ys : List Byte) (b : Block) :
    b.feedBytes cfg (xs ++ ys) = (b.feedBytes cfg xs).feedBytes cfg ys := List.foldl_append

/-- Only `EVAL` leaves Ready: bytes do not (R130). -/
theorem Block.feedBytes_ready {b : Block} (h : b.fsm = .ready) (cfg : Config) (xs : List Byte) :
    b.feedBytes cfg xs = b := by
  induction xs with
  | nil => rfl
  | cons x xs ih => rw [Block.feedBytes_cons, Block.feedByte_ready h, ih]

/-- While capturing, bytes that fit and hold no end marker are appended (R136). -/
theorem Block.feedBytes_capture {cfg : Config} {b : Block} {xs : List Byte} (h : b.fsm = .capturing)
    (hfits : b.cap.length + xs.length ≤ cfg.cap) (hxs : chBang ∉ xs) :
    b.feedBytes cfg xs = { b with cap := b.cap ++ xs } := by
  induction xs generalizing b with
  | nil => simp
  | cons x xs ih =>
    obtain ⟨hx, hxs⟩ := List.ne_and_not_mem_of_not_mem_cons hxs
    rw [List.length_cons] at hfits
    have hrest : (b.cap ++ [x]).length + xs.length ≤ cfg.cap := by simp; omega
    rw [Block.feedBytes_cons, Block.feedByte_capture h (by omega) hx.symm,
      ih (b := { b with cap := b.cap ++ [x] }) h hrest hxs, List.append_cons b.cap x xs]

/-- From Idle, `/` and bytes that fit and hold no end marker are captured (R133, R136). -/
theorem Block.feedBytes_frame {cfg : Config} {b : Block} {xs : List Byte} (h : b.fsm = .idle)
    (hfits : xs.length + 1 ≤ cfg.cap) (hxs : chBang ∉ xs) :
    b.feedBytes cfg (chSlash :: xs) = { b with fsm := .capturing, cap := chSlash :: xs } := by
  rw [Block.feedBytes_cons, Block.feedByte_slash h, Block.feedBytes_capture rfl (by simp; omega) hxs]
  rfl

/-- Settles O51: `CAP` bytes are captured, and the next finds the buffer full. -/
theorem overlongFrameDropped : Obligations.OverlongFrameDropped := by
  intro cfg b xs y _ hidle hlen hxs
  have hcaptured := Block.feedBytes_frame hidle hlen.le hxs
  change b.feedBytes cfg ((chSlash :: xs) ++ [y]) = _
  rw [Block.feedBytes_append, hcaptured]
  exact Block.feedByte_full (b := { b with fsm := .capturing, cap := chSlash :: xs }) rfl hlen

/-- From Idle, a telegram's body that fits is captured whole, and its checksum text comes next (R133 to R136). -/
theorem Block.feedBytes_body {cfg : Config} {b : Block} {mid : List Byte} (h : b.fsm = .idle)
    (hfits : mid.length + 2 ≤ cfg.cap) (hmid : chBang ∉ mid) :
    b.feedBytes cfg (chSlash :: (mid ++ [chBang])) =
      { b with fsm := .readingChecksum, cap := chSlash :: (mid ++ [chBang]), ck := [] } := by
  rw [← List.cons_append, Block.feedBytes_append, Block.feedBytes_frame h (by omega) hmid, Block.feedBytes_cons,
    Block.feedByte_bang rfl (by simp; omega)]
  rfl

/-- The block when a frame has been read whole: its body in the capture buffer, its checksum text behind it (R138). -/
def Block.received (body ck : List Byte) (b : Block) : Block := { b with fsm := .ready, cap := body, ck := ck }

/-! ### Runs of the machine, up to the responses (R15, R81) -/

/-- What a step reads of a state: all but the responses given so far (log 7). -/
structure View where
  cfg : Config
  block : Block
  pending : List Presentation

def State.view (s : State) : View := ⟨s.cfg, s.block, s.host.pending⟩

/-- `k` steps lead from every state of view `v` to a state of view `w`. -/
def RunsTo (k : Nat) (v w : View) : Prop :=
  ∀ s : State, s.view = v → ∃ t, Host.Core.run core k s = .next t ∧ t.view = w

/-- A run in two parts. -/
theorem run_add {k l : Nat} {s t : State} (h : Host.Core.run core k s = .next t) :
    Host.Core.run core (k + l) s = Host.Core.run core l t := by
  induction k generalizing s with
  | zero =>
    cases h
    rw [Nat.zero_add]
  | succ k ih =>
    rw [Nat.succ_add]
    simp only [Host.Core.run] at h ⊢
    cases hstep : core.step s with
    | next s' =>
      simp only [hstep] at h
      exact ih h
    | fault r => simp [hstep] at h
    | refused r => simp [hstep] at h

theorem RunsTo.refl (v : View) : RunsTo 0 v v := fun s hs => ⟨s, rfl, hs⟩

theorem RunsTo.trans {k l : Nat} {u v w : View} (huv : RunsTo k u v) (hvw : RunsTo l v w) : RunsTo (k + l) u w := by
  intro s hs
  obtain ⟨t, hst, ht⟩ := huv s hs
  rw [run_add hst]
  exact hvw t ht

/-- A step that goes on alike whatever the responses so far. -/
theorem RunsTo.of_step {cfg : Config} {b : Block} {ps : List Presentation} {w : View}
    (h : ∀ responses, ∃ t, step ⟨cfg, b, ⟨ps, responses⟩⟩ = .next t ∧ t.view = w) : RunsTo 1 ⟨cfg, b, ps⟩ w := by
  rintro ⟨_, _, _, responses⟩ ⟨⟩
  obtain ⟨t, hstep, ht⟩ := h responses
  have hcore : core.step _ = .next t := hstep
  exact ⟨t, by simp only [Host.Core.run, hcore], ht⟩

/-! ### The bytes of a frame at the command port (R147) -/

theorem presentsBytes_append {ps : List Presentation} {xs ys : List Byte} (h : presentsBytes ps (xs ++ ys)) :
    ∃ qs rs, ps = qs ++ rs ∧ presentsBytes qs xs ∧ presentsBytes rs ys := by
  rw [presentsBytes, List.map_append] at h
  exact List.map_eq_append_iff.mp h

theorem presentsBytes_cons {ps : List Presentation} {x : Byte} {xs : List Byte} (h : presentsBytes ps (x :: xs)) :
    ∃ p qs, ps = p :: qs ∧ p.word = encode (.feed x) ∧ presentsBytes qs xs :=
  List.map_eq_cons_iff.mp h

theorem presentsBytes_nil {ps : List Presentation} (h : presentsBytes ps []) : ps = [] := List.map_eq_nil_iff.mp h

theorem decode_encode_feed (x : Byte) : decode (encode (.feed x)) = .command (.feed x) := decodeInvertsEncode _ rfl

/-- A `FEED` at the port is taken outside Ready. -/
theorem step_feed {s : State} {p : Presentation} {x : Byte} {rest : List Presentation} (hwf : s.cfg.wf = true)
    (hport : s.host.pending = p :: rest) (hword : p.word = encode (.feed x)) (hfsm : s.block.fsm ≠ .ready) :
    step s = .next (takeByte x s.takeCommand) := by
  have hfree : s.block.busy = false := Bool.eq_false_iff.mpr (mt s.block.busy_iff.mp hfsm)
  rw [step_of_takes hwf hport (Block.takes_of_not_busy hfree p) (hword ▸ decode_encode_feed x)]
  exact exec_feed_of_not_ready (s := s.takeCommand) hfsm x

section port
variable {cfg : Config} {b : Block} {p : Presentation} {x : Byte}

/-- Not halted and outside Ready, a `FEED` at the port gives its byte to the decoder. -/
theorem runsTo_feedByte (hwf : cfg.wf = true) (hrun : b.halted = false) (hfsm : b.fsm ≠ .ready)
    (hword : p.word = encode (.feed x)) (rest : List Presentation) :
    RunsTo 1 ⟨cfg, b, p :: rest⟩ ⟨cfg, b.feedByte cfg x, rest⟩ :=
  .of_step fun _ => ⟨_, step_feed hwf rfl hword hfsm, by rw [takeByte_of_running hrun]; rfl⟩

/-- In Idle, halted or not, a `FEED` of anything but `/` is taken and leaves the block (R132, R133, R150). -/
theorem runsTo_discard (hwf : cfg.wf = true) (hidle : b.fsm = .idle) (hx : x ≠ chSlash)
    (hword : p.word = encode (.feed x)) (rest : List Presentation) :
    RunsTo 1 ⟨cfg, b, p :: rest⟩ ⟨cfg, b, rest⟩ := by
  refine .of_step fun _ => ⟨_, step_feed hwf rfl hword (by simp [hidle]), ?_⟩
  cases hhalted : b.halted
  · rw [takeByte_of_running hhalted]
    change View.mk cfg (b.feedByte cfg x) rest = _
    rw [Block.feedByte_idle hidle hx]
  · rw [takeByte_of_halted hhalted]
    rfl

/-- In Ready a `FEED` at the port is held, whatever its bit, and the Sequencer evaluates (R130, R340). -/
theorem runsTo_eval (hwf : cfg.wf = true) (hready : b.fsm = .ready) (hword : p.word = encode (.feed x))
    (rest : List Presentation) : RunsTo 1 ⟨cfg, b, p :: rest⟩ ⟨cfg, b.eval cfg, p :: rest⟩ := by
  have hheld : heldOpcode (opOf p.word) = true := by
    rw [hword, opOf_of_decode (decode_encode_feed x)]
    rfl
  have hwaits : b.takes p = false := by simp [Block.takes_of_busy (b.busy_iff.mpr hready), hheld]
  exact .of_step fun _ => ⟨_, step_of_not_takes hwf rfl hwaits, rfl⟩

/-- Bytes that do not bring the decoder to Ready are all taken, one a step. -/
theorem runsTo_feedBytes (hwf : cfg.wf = true) {xs : List Byte} {ps : List Presentation} (hps : presentsBytes ps xs)
    (hrun : b.halted = false) (hend : (b.feedBytes cfg xs).fsm ≠ .ready) (rest : List Presentation) :
    RunsTo xs.length ⟨cfg, b, ps ++ rest⟩ ⟨cfg, b.feedBytes cfg xs, rest⟩ := by
  induction xs generalizing b ps with
  | nil =>
    rw [presentsBytes_nil hps]
    exact .refl _
  | cons x xs ih =>
    obtain ⟨p, ps, rfl, hword, hps⟩ := presentsBytes_cons hps
    have hfsm : b.fsm ≠ .ready := fun hready => hend (by rwa [Block.feedBytes_ready hready])
    have hrun' : (b.feedByte cfg x).halted = false := by
      obtain ⟨_, _, _, _, hframe⟩ := b.feedByte_frame cfg x
      rw [hframe]
      exact hrun
    rw [List.length_cons, Nat.add_comm]
    exact (runsTo_feedByte hwf hrun hfsm hword _).trans (ih hps hrun' hend)

/-- The checksum text up to its fourth byte: each byte is stored, and the decoder is Ready (R137, R138). -/
theorem runsTo_checksumText (hwf : cfg.wf = true) {xs : List Byte} {ps : List Presentation} (hps : presentsBytes ps xs)
    (hrun : b.halted = false) (hreading : b.fsm = .readingChecksum) (hne : xs ≠ [])
    (hlen : b.ck.length + xs.length = 4) (hCR : chCR ∉ xs) (hLF : chLF ∉ xs) (rest : List Presentation) :
    RunsTo xs.length ⟨cfg, b, ps ++ rest⟩ ⟨cfg, { b with fsm := .ready, ck := b.ck ++ xs }, rest⟩ := by
  induction xs generalizing b ps with
  | nil => exact absurd rfl hne
  | cons x xs ih =>
    obtain ⟨p, ps, rfl, hword, hps⟩ := presentsBytes_cons hps
    obtain ⟨hxCR, hCR⟩ := List.ne_and_not_mem_of_not_mem_cons hCR
    obtain ⟨hxLF, hLF⟩ := List.ne_and_not_mem_of_not_mem_cons hLF
    have hfirst := runsTo_feedByte hwf hrun (by simp [hreading]) hword (ps ++ rest)
    rw [Block.feedByte_checksum hreading hxCR.symm hxLF.symm] at hfirst
    rw [List.length_cons] at hlen
    rw [List.length_cons, Nat.add_comm]
    refine hfirst.trans ?_
    cases xs with
    | nil =>
      rw [presentsBytes_nil hps, if_pos (by simpa using hlen)]
      exact .refl _
    | cons y ys =>
      have hmore : b.ck.length ≠ 3 := by simp at hlen; omega
      rw [if_neg hmore, List.append_cons b.ck x (y :: ys)]
      exact ih (b := { b with fsm := .readingChecksum, ck := b.ck ++ [x] }) hps hrun rfl (List.cons_ne_nil y ys)
        (by simp at hlen ⊢; omega) hCR hLF

/-- The body of a telegram, not halted: captured whole, one byte a step (R133 to R136). -/
theorem runsTo_body (hwf : cfg.wf = true) {mid : List Byte} {ps : List Presentation}
    (hps : presentsBytes ps (chSlash :: (mid ++ [chBang]))) (hrun : b.halted = false) (hidle : b.fsm = .idle)
    (hfits : mid.length + 2 ≤ cfg.cap) (hmid : chBang ∉ mid) (rest : List Presentation) :
    RunsTo (mid.length + 2) ⟨cfg, b, ps ++ rest⟩
      ⟨cfg, { b with fsm := .readingChecksum, cap := chSlash :: (mid ++ [chBang]), ck := [] }, rest⟩ := by
  have hcapture := Block.feedBytes_body hidle hfits hmid
  have hbody := runsTo_feedBytes hwf hps hrun (by simp [hcapture]) rest
  have hlen : (chSlash :: (mid ++ [chBang])).length = mid.length + 2 := by simp
  rwa [hcapture, hlen] at hbody

/-- What follows the checksum text: `EVAL` runs while CR waits, then CR and LF are discarded, whatever `EVAL` did (R150). -/
theorem runsTo_lineEnd (hwf : cfg.wf = true) {ps : List Presentation} (hps : presentsBytes ps [chCR, chLF])
    (hready : b.fsm = .ready) (rest : List Presentation) :
    RunsTo 3 ⟨cfg, b, ps ++ rest⟩ ⟨cfg, b.eval cfg, rest⟩ := by
  obtain ⟨pCR, ps, rfl, hCR, hps⟩ := presentsBytes_cons hps
  obtain ⟨pLF, ps, rfl, hLF, hps⟩ := presentsBytes_cons hps
  rw [presentsBytes_nil hps]
  have hidle : (b.eval cfg).fsm = .idle := rfl
  exact ((runsTo_eval hwf hready hCR (pLF :: rest)).trans (runsTo_discard hwf hidle (by decide) hCR _)).trans
    (runsTo_discard hwf hidle (by decide) hLF rest)

/-- A whole frame from Idle, with any checksum text of 4 bytes: body, checksum text, `EVAL`, CR LF (R147, R150). -/
theorem runsTo_frame (hwf : cfg.wf = true) {mid ck : List Byte} {ps : List Presentation}
    (hps : presentsBytes ps (chSlash :: (mid ++ [chBang]) ++ ck ++ [chCR, chLF])) (hrun : b.halted = false)
    (hidle : b.fsm = .idle) (hfits : mid.length + 2 ≤ cfg.cap) (hmid : chBang ∉ mid) (hck : ck.length = 4)
    (hCR : chCR ∉ ck) (hLF : chLF ∉ ck) (rest : List Presentation) :
    RunsTo (mid.length + 9) ⟨cfg, b, ps ++ rest⟩
      ⟨cfg, (b.received (chSlash :: (mid ++ [chBang])) ck).eval cfg, rest⟩ := by
  obtain ⟨ps, psEnd, rfl, hps, hpsEnd⟩ := presentsBytes_append hps
  obtain ⟨psBody, psCk, rfl, hpsBody, hpsCk⟩ := presentsBytes_append hps
  have hne : ck ≠ [] := List.ne_nil_of_length_eq_add_one hck
  have hbody := runsTo_body hwf hpsBody hrun hidle hfits hmid (psCk ++ (psEnd ++ rest))
  have htext := runsTo_checksumText hwf hpsCk
    (b := { b with fsm := .readingChecksum, cap := chSlash :: (mid ++ [chBang]), ck := [] })
    hrun rfl hne (by simpa using hck) hCR hLF (psEnd ++ rest)
  rw [hck] at htext
  rw [List.append_assoc, List.append_assoc]
  exact (hbody.trans htext).trans (runsTo_lineEnd hwf hpsEnd rfl rest)

end port

/-! ### The two laws of a frame (R147) -/

/-- The events of the decoder itself: `PARSE` raises none of them (R310). -/
def Event.ofDecoder : Event → Bool
  | .frameOk | .crcFail | .capDrop => true
  | .fieldErr | .samplePushed | .evict | .emptyWin | .illegal => false

section count
variable {e : Event} (he : e.ofDecoder = true)
include he

theorem Block.count_raise_of_ofDecoder {f : Event} (hf : f.ofDecoder = false) (b : Block) :
    (b.raise f).count e = b.count e := by
  rw [Block.count_raise, if_neg]
  rintro rfl
  exact Bool.noConfusion (hf.symm.trans he)

theorem Block.count_push_of_ofDecoder (cfg : Config) (s : Sample) (b : Block) : (b.push cfg s).count e = b.count e := by
  have hstore (b : Block) : (b.storeSample cfg s).count e = b.count e := by
    rw [Block.count_storeSample, if_neg]
    rintro rfl
    cases he
  obtain ⟨-, heq⟩ | ⟨-, heq⟩ := b.push_cases cfg s <;> rw [heq, hstore]
  rw [Block.count_raise_of_ofDecoder he rfl, Block.count_dropOldest]

theorem Block.count_selectWindow_of_ofDecoder (cfg : Config) (t : Word) (b : Block) :
    (b.selectWindow cfg t).count e = b.count e := by
  have hfinalize : (b.finalize cfg).count e = b.count e := by
    obtain ⟨-, heq⟩ | ⟨-, heq⟩ := b.finalize_cases cfg <;> rw [heq]
    · exact Block.count_raise_of_ofDecoder he rfl b
    · exact Block.count_push_of_ofDecoder he cfg _ b
  obtain ⟨-, heq⟩ | ⟨-, -, heq⟩ | ⟨-, -, heq⟩ := b.selectWindow_cases cfg t <;> rw [heq]
  · exact Block.count_startWindow _ b e
  · rw [Block.count_startWindow, hfinalize]

/-- `PARSE` moves none of the decoder's counters (R310). -/
theorem Block.count_parse_of_ofDecoder (cfg : Config) (tel : List Byte) (t : Word) (b : Block) :
    (b.parse cfg tel t).count e = b.count e := by
  rw [← Block.count_selectWindow_of_ofDecoder he cfg t b, Block.parse]
  obtain ⟨acc, -, heq | heq⟩ := Block.parseLines_cases cfg (splitLF tel) (b.selectWindow cfg t) <;> rw [heq]
  · rfl
  · rw [Block.fieldError_eq]
    exact Block.count_raise_of_ofDecoder he rfl _

end count

/-- On a match `EVAL` adds one to `CNT_FRAME_OK` and leaves the decoder's other counters (R143, R310). -/
theorem Block.count_eval_of_match {cfg : Config} {b : Block} (hmatch : crc16 b.cap = hexval b.ck) {e : Event}
    (he : e.ofDecoder = true) :
    (b.eval cfg).count e = if .frameOk = e then b.count .frameOk + 1#32 else b.count e := by
  obtain ⟨hne, -⟩ | ⟨-, heq⟩ := b.eval_cases cfg
  · exact absurd hmatch hne
  · rw [heq]
    exact (Block.count_parse_of_ofDecoder he cfg b.cap b.now _).trans (Block.count_raise b.recordCrc .frameOk e)

/-- Settles O49: the run of the frame, whose checksum text reads back as the checksum, so that `EVAL` matches. -/
theorem frameRoundTrip : Obligations.FrameRoundTrip := by
  intro s mid ps rest body hwf hidle hrun hmid hfits hps hport
  obtain ⟨hvalue, hlen, hCR, hLF⟩ := checksumTextReadsBack (crc16 body)
  have hbody : body.length = mid.length + 2 := by simp [body]
  have hframe := runsTo_frame hwf hps hrun hidle (hbody ▸ hfits) hmid hlen hCR hLF rest
  obtain ⟨t, hsteps, ht⟩ := hframe s (by rw [← hport]; rfl)
  obtain ⟨hcfg, hblock, hpending⟩ := View.mk.inj ht
  have hmatch : crc16 body = hexval (hex4 (crc16 body)) := hvalue.symm
  obtain ⟨heval, hend, -⟩ := evalParsesMatch s.cfg (s.block.received body (hex4 (crc16 body))) hmatch
  have hcount {e : Event} (he : e.ofDecoder = true) :=
    Block.count_eval_of_match (cfg := s.cfg) (b := s.block.received body (hex4 (crc16 body))) hmatch he
  refine ⟨t, hbody ▸ hsteps, hcfg, hpending, ?_⟩
  rw [hblock]
  refine ⟨hend, ?_, hcount rfl, hcount rfl, hcount rfl⟩
  rw [heval, Block.received, ← hmatch]

/-- A changed byte changes the checksum (R117). -/
theorem crc16_ne_of_byte_ne {x y : Byte} (h : y ≠ x) (pre post : List Byte) :
    crc16 (pre ++ y :: post) ≠ crc16 (pre ++ x :: post) := by
  have hdiff : x ^^^ y ≠ 0#8 := mt BitVec.xor_eq_zero_iff.mp h.symm
  have hxor := crcDetectsByteChange.2 pre post x (x ^^^ y) hdiff
  rw [← BitVec.xor_assoc, BitVec.xor_self, BitVec.zero_xor, ne_eq, BitVec.xor_eq_zero_iff] at hxor
  exact Ne.symm hxor

/-- Settles O50: the run of the corrupted frame, whose checksum text is that of the body it was made from. -/
theorem corruptedFrameDropped : Obligations.CorruptedFrameDropped := by
  intro s pre post x y ps rest body corrupted hwf hidle hrun hpre hpost _ hy hyx hfits hps hport
  obtain ⟨hvalue, hlen, hCR, hLF⟩ := checksumTextReadsBack (crc16 body)
  have hbody : body.length = (pre ++ y :: post).length + 2 := by simp [body]; omega
  have hcorrupted : corrupted = chSlash :: ((pre ++ y :: post) ++ [chBang]) := by simp [corrupted]
  have hmid : chBang ∉ pre ++ y :: post := by simp [hpre, hpost, Ne.symm hy]
  have hframe := runsTo_frame hwf (hcorrupted ▸ hps) hrun hidle (hbody ▸ hfits) hmid hlen hCR hLF rest
  obtain ⟨t, hsteps, ht⟩ := hframe s (by rw [← hport]; rfl)
  obtain ⟨hcfg, hblock, hpending⟩ := View.mk.inj ht
  have hmismatch : crc16 corrupted ≠ hexval (hex4 (crc16 body)) := by
    rw [hvalue]
    exact crc16_ne_of_byte_ne hyx (chSlash :: pre) (post ++ [chBang])
  have heval := evalDropsMismatch s.cfg (s.block.received corrupted (hex4 (crc16 body))) hmismatch
  refine ⟨t, hbody ▸ hsteps, hcfg, hpending, ?_⟩
  rw [hblock, ← hcorrupted, heval, Block.received, hvalue, ← hidle]

end Sys2Proof.Machine

/-! PROOFS. The Telegram Parser: the two grammars (R165 to R168), the value of a capture (R170, R171), what a field id updates
(R172 to R176, R179, R180), and the loop over the lines (R160 to R164, R169, R177, R178). -/

namespace Sys2Proof

/-! ### The tag lookup (R172) -/

/-- The first entry of a tag counts. -/
theorem Config.lookup_of_first {cfg : Config} {tag : List Byte} {id : BitVec 4}
    {pre post : List (List Byte × BitVec 4)} (htable : cfg.tagTable = pre ++ (tag, id) :: post)
    (hpre : ∀ e ∈ pre, e.1 ≠ tag) : cfg.lookup tag = id := by
  have hfirst : cfg.tagTable.lookup tag = some id :=
    List.lookup_eq_some_iff.mpr ⟨pre, post, htable, fun e he => bne_iff_ne.mpr (hpre e he).symm⟩
  rw [Config.lookup, hfirst, Option.getD_some]

theorem Config.lookup_of_notMem {cfg : Config} {tag : List Byte} (h : ∀ e ∈ cfg.tagTable, e.1 ≠ tag) :
    cfg.lookup tag = 0#4 := by
  have hnone : cfg.tagTable.lookup tag = none :=
    List.lookup_eq_none_iff.mpr fun e he => bne_iff_ne.mpr (h e he).symm
  rw [Config.lookup, hnone, Option.getD_none]

end Sys2Proof

namespace Sys2Proof.Machine

/-! ### The two grammars (R165 to R168) -/

/-- Cutting a line behind its leading run of `p`: the run is all `p`, and what follows it does not go on with `p`. -/
theorem takeWhile_dropWhile_iff {p : Byte → Bool} {l run rest : List Byte} :
    (l.takeWhile p = run ∧ l.dropWhile p = rest) ↔
      (∀ x ∈ run, p x = true) ∧ (∀ x, rest.head? = some x → p x = false) ∧ l = run ++ rest := by
  constructor
  · rintro ⟨rfl, rfl⟩
    refine ⟨fun x hx => List.mem_takeWhile_imp hx, fun x hx => ?_, List.takeWhile_append_dropWhile.symm⟩
    have hhead := List.head?_dropWhile_not p l
    rwa [hx] at hhead
  · rintro ⟨hrun, hrest, rfl⟩
    rw [List.takeWhile_append_of_pos hrun, List.dropWhile_append_of_pos hrun]
    cases rest with
    | nil => simp
    | cons x rest => simp [hrest x rfl]

/-- The run before the first `c`. -/
theorem takeWhile_dropWhile_ne_iff {c : Byte} {l run rest : List Byte} :
    (l.takeWhile (· != c) = run ∧ l.dropWhile (· != c) = rest) ↔
      c ∉ run ∧ (∀ x, rest.head? = some x → x = c) ∧ l = run ++ rest := by
  have hrun : (∀ x ∈ run, (x != c) = true) ↔ c ∉ run := by
    simp only [bne_iff_ne]
    exact ⟨fun h hc => h c hc rfl, fun h x hx hxc => h (hxc ▸ hx)⟩
  simp only [takeWhile_dropWhile_iff, hrun, bne_eq_false_iff_eq]

/-- A numeric capture is a non-empty numeric run with `*` behind it (R166). -/
theorem numericCapture_eq_some_iff {s num : List Byte} :
    numericCapture s = some num ↔
      num ≠ [] ∧ (∀ x ∈ num, isNumeric x = true) ∧ ∃ rest, s = num ++ chStar :: rest := by
  constructor
  · intro h
    dsimp only [numericCapture] at h
    split at h
    · cases h
    next hne =>
      split at h
      · cases h
      next x rest hdrop =>
        split_ifs at h with hx
        cases h
        obtain ⟨hnum, -, heq⟩ := takeWhile_dropWhile_iff.mp ⟨rfl, hdrop⟩
        exact ⟨by simpa using hne, hnum, rest, hx ▸ heq⟩
  · rintro ⟨hne, hnum, rest, rfl⟩
    have hstar : ∀ x, (chStar :: rest).head? = some x → isNumeric x = false := by
      rintro _ ⟨⟩
      decide
    obtain ⟨htake, hdrop⟩ := takeWhile_dropWhile_iff.mpr ⟨hnum, hstar, rfl⟩
    simp [numericCapture, htake, hdrop, hne]

/-- The ignored group ends at the first `)`, which `(` must follow (R167). -/
theorem afterIgnored_eq_some_iff {s more : List Byte} :
    afterIgnored s = some more ↔
      ∃ ignored, chRParen ∉ ignored ∧ s = ignored ++ chRParen :: chLParen :: more := by
  constructor
  · intro h
    unfold afterIgnored at h
    split at h
    next x y rest hdrop =>
      split_ifs at h with hy
      cases h
      obtain ⟨hignored, hparen, heq⟩ := takeWhile_dropWhile_ne_iff.mp ⟨rfl, hdrop⟩
      rw [hparen x rfl, hy] at heq
      exact ⟨_, hignored, heq⟩
    · cases h
  · rintro ⟨ignored, hignored, rfl⟩
    obtain ⟨-, hdrop⟩ := takeWhile_dropWhile_ne_iff.mpr
      ⟨hignored, by simp, (rfl : ignored ++ chRParen :: chLParen :: more = _)⟩
    simp [afterIgnored, hdrop]

/-- A match has its non-empty tag before the first `(`, and its capture from what follows: at once, or else behind the ignored
group (R165 to R168). -/
theorem matchLine_eq_some_iff {line tag num : List Byte} {g : Grammar} :
    matchLine line = some ⟨g, tag, num⟩ ↔
      tag ≠ [] ∧ chLParen ∉ tag ∧ ∃ rest, line = tag ++ chLParen :: rest ∧
        (g = .a ∧ numericCapture rest = some num ∨
          g = .b ∧ numericCapture rest = none ∧ (afterIgnored rest).bind numericCapture = some num) := by
  constructor
  · intro h
    dsimp only [matchLine] at h
    split at h
    · cases h
    next hne =>
      split at h
      · cases h
      next x rest hdrop =>
        obtain ⟨htag, hparen, heq⟩ := takeWhile_dropWhile_ne_iff.mp ⟨rfl, hdrop⟩
        rw [hparen x rfl] at heq
        split at h
        next hnum =>
          cases h
          exact ⟨by simpa using hne, htag, rest, heq, .inl ⟨rfl, hnum⟩⟩
        next hnone =>
          split at h
          next hnum =>
            cases h
            exact ⟨by simpa using hne, htag, rest, heq, .inr ⟨rfl, hnone, hnum⟩⟩
          · cases h
  · rintro ⟨hne, htag, rest, rfl, hcapture⟩
    obtain ⟨htake, hdrop⟩ := takeWhile_dropWhile_ne_iff.mpr
      ⟨htag, by simp, (rfl : tag ++ chLParen :: rest = _)⟩
    obtain ⟨rfl, hnum⟩ | ⟨rfl, hnone, hnum⟩ := hcapture
    · simp [matchLine, htake, hdrop, hne, hnum]
    · simp [matchLine, htake, hdrop, hne, hnone, hnum]

/-- Grammar A fails on a line with a tag exactly when no capture follows the tag's `(` (R168). -/
theorem grammarA_fails_iff {tag rest : List Byte} (hne : tag ≠ []) (htag : chLParen ∉ tag) :
    (∀ num, matchLine (tag ++ chLParen :: rest) ≠ some ⟨.a, tag, num⟩) ↔ numericCapture rest = none := by
  simp [matchLine_eq_some_iff, hne, htag, Option.eq_none_iff_forall_ne_some]

/-- Settles O35: the tag is what precedes the first `(`, and the capture follows it at once. -/
theorem grammarAExactly : Obligations.GrammarAExactly := by
  intro line tag num
  constructor
  · intro h
    obtain ⟨hne, htag, rest, rfl, ⟨-, hcapture⟩ | ⟨hg, -⟩⟩ := matchLine_eq_some_iff.mp h
    · obtain ⟨hnum, hnumeric, rest, rfl⟩ := numericCapture_eq_some_iff.mp hcapture
      exact ⟨hne, htag, hnum, hnumeric, rest, rfl⟩
    · cases hg
  · rintro ⟨hne, htag, hnum, hnumeric, rest, rfl⟩
    have hcapture := numericCapture_eq_some_iff.mpr ⟨hnum, hnumeric, rest, rfl⟩
    exact matchLine_eq_some_iff.mpr ⟨hne, htag, _, rfl, .inl ⟨rfl, hcapture⟩⟩

/-- Settles O36: the capture follows the ignored group, and Grammar A found none before it. -/
theorem grammarBExactly : Obligations.GrammarBExactly := by
  intro line tag num
  constructor
  · intro h
    obtain ⟨hne, htag, rest, rfl, ⟨hg, -⟩ | ⟨-, hnone, hbind⟩⟩ := matchLine_eq_some_iff.mp h
    · cases hg
    · obtain ⟨more, hafter, hcapture⟩ := Option.bind_eq_some_iff.mp hbind
      have hfails := (grammarA_fails_iff hne htag).mpr hnone
      obtain ⟨ignored, hignored, rfl⟩ := afterIgnored_eq_some_iff.mp hafter
      obtain ⟨hnum, hnumeric, rest, rfl⟩ := numericCapture_eq_some_iff.mp hcapture
      exact ⟨hne, htag, hnum, hnumeric, hfails, ignored, rest, hignored, rfl⟩
  · rintro ⟨hne, htag, hnum, hnumeric, hfails, ignored, rest, hignored, rfl⟩
    have hnone := (grammarA_fails_iff hne htag).mp hfails
    have hafter := (afterIgnored_eq_some_iff (more := num ++ chStar :: rest)).mpr ⟨ignored, hignored, rfl⟩
    have hcapture := numericCapture_eq_some_iff.mpr ⟨hnum, hnumeric, rest, rfl⟩
    have hbind := Option.bind_eq_some_iff.mpr ⟨_, hafter, hcapture⟩
    exact matchLine_eq_some_iff.mpr ⟨hne, htag, _, rfl, .inr ⟨rfl, hnone, hbind⟩⟩

/-! ### The value of a capture (R170, R171) -/

/-- The digits are 0x30 to 0x39 (R16). -/
theorem isDigit_iff {x : Byte} : isDigit x = true ↔ 0x30 ≤ x.toNat ∧ x.toNat ≤ 0x39 := by
  simp [isDigit]

theorem decimal_append_singleton (ds : List Byte) (d : Byte) :
    decimal (ds ++ [d]) = decimal ds * 10 + (d.toNat - 0x30) := by
  simp [decimal]

/-- A run of digits is below the power of 10 of its length. -/
theorem decimal_lt {ds : List Byte} (h : ∀ x ∈ ds, isDigit x = true) : decimal ds < 10 ^ ds.length := by
  induction ds using List.reverseRecOn with
  | nil => decide
  | append_singleton ds d ih =>
    have hds := ih fun x hx => h x (List.mem_append_left _ hx)
    have hd := isDigit_iff.mp (h d (by simp))
    rw [decimal_append_singleton, List.length_append, List.length_singleton, Nat.pow_succ]
    omega

/-- The whole digits are a run, so they end where something else follows. -/
theorem wholeDigits_append {whole tail : List Byte} (hwhole : ∀ x ∈ whole, isDigit x = true)
    (htail : ∀ x, tail.head? = some x → isDigit x = false) : wholeDigits (whole ++ tail) = whole :=
  (takeWhile_dropWhile_iff.mpr ⟨hwhole, htail, rfl⟩).1

/-- No digit is a point. -/
theorem isDigit_chDot : isDigit chDot = false := by decide

theorem fractionDigits_append_point {whole : List Byte} (hwhole : ∀ x ∈ whole, isDigit x = true) (rest : List Byte) :
    fractionDigits (whole ++ chDot :: rest) = rest.takeWhile isDigit := by
  simp [fractionDigits, List.dropWhile_append_of_pos hwhole, isDigit_chDot]

theorem fractionDigits_append_no_point {whole tail : List Byte} (hwhole : ∀ x ∈ whole, isDigit x = true)
    (htail : ∀ x, tail.head? = some x → isDigit x = false ∧ x ≠ chDot) : fractionDigits (whole ++ tail) = [] := by
  obtain ⟨-, hdrop⟩ := takeWhile_dropWhile_iff.mpr ⟨hwhole, fun x hx => (htail x hx).1, rfl⟩
  unfold fractionDigits
  rw [hdrop]
  cases tail with
  | nil => rfl
  | cons x tail => exact if_neg (htail x rfl).2

/-- An absent fraction is three padding zeros. -/
theorem decimal_padding : decimal (([] ++ [0x30#8, 0x30#8, 0x30#8]).take 3) = 0 := by decide

/-- Text without a digit needs no case of its own: the formula gives 0 for it. -/
theorem numvalExact_eq (num : List Byte) :
    numvalExact num =
      decimal (wholeDigits num) * 1000 + decimal ((fractionDigits num ++ [0x30#8, 0x30#8, 0x30#8]).take 3) := by
  unfold numvalExact
  split
  next hempty =>
    simp only [Bool.and_eq_true, List.isEmpty_iff] at hempty
    obtain ⟨hwhole, hfrac⟩ := hempty
    rw [hwhole, hfrac, decimal_padding]
    rfl
  · rfl

/-- Settles O37: the whole digits end at the point or the rest, the fraction digits at the rest. -/
theorem numvalReadsDecimal : Obligations.NumvalReadsDecimal := by
  refine ⟨rfl, decimal_append_singleton, fun whole frac tail hwhole hfrac htail => ?_, fun whole tail hwhole htail => ?_⟩
  · have hpoint : ∀ x, (chDot :: (frac ++ tail)).head? = some x → isDigit x = false := by
      rintro _ ⟨⟩
      exact isDigit_chDot
    have hdigits : (frac ++ tail).takeWhile isDigit = frac := wholeDigits_append hfrac htail
    rw [numvalExact_eq, wholeDigits_append hwhole hpoint, fractionDigits_append_point hwhole, hdigits]
  · rw [numvalExact_eq, wholeDigits_append hwhole fun x hx => (htail x hx).1,
      fractionDigits_append_no_point hwhole htail, decimal_padding, Nat.add_zero]

theorem isDigit_of_mem_wholeDigits {num : List Byte} : ∀ x ∈ wholeDigits num, isDigit x = true :=
  fun _ => List.mem_takeWhile_imp

theorem isDigit_of_mem_fractionDigits {num : List Byte} : ∀ x ∈ fractionDigits num, isDigit x = true := by
  intro x hx
  unfold fractionDigits at hx
  split at hx
  · cases hx
  · split_ifs at hx
    · exact List.mem_takeWhile_imp hx
    · cases hx

/-- The padded fraction has three digits. -/
theorem decimal_fraction_lt (num : List Byte) :
    decimal ((fractionDigits num ++ [0x30#8, 0x30#8, 0x30#8]).take 3) < 1000 := by
  have hdigits : ∀ x ∈ (fractionDigits num ++ [0x30#8, 0x30#8, 0x30#8]).take 3, isDigit x = true := by
    intro x hx
    obtain hx | hx := List.mem_append.mp (List.mem_of_mem_take hx)
    · exact isDigit_of_mem_fractionDigits x hx
    · exact (by decide : ∀ y ∈ [0x30#8, 0x30#8, 0x30#8], isDigit y = true) x hx
  have hlt := decimal_lt hdigits
  simpa using hlt

/-- The whole digits of a capture of at most 16 bytes stay below 10^16 (R171). -/
theorem decimal_wholeDigits_lt {num : List Byte} (h : (wholeDigits num).length ≤ 16) :
    decimal (wholeDigits num) < 10 ^ 16 :=
  calc decimal (wholeDigits num) < 10 ^ (wholeDigits num).length := decimal_lt isDigit_of_mem_wholeDigits
    _ ≤ 10 ^ 16 := Nat.pow_le_pow_right (by decide) h

/-- Settles O38: 16 whole digits and 3 fraction digits stay below 10^19, and so below 2^64. -/
theorem numvalFits : Obligations.NumvalFits := by
  intro cfg num hwf hlen
  obtain ⟨-, -, -, hcap, -⟩ := cfg.wf_iff.mp hwf
  have hrun : (wholeDigits num).length ≤ cfg.fieldCap := (List.takeWhile_sublist _).length_le.trans hlen
  have hwhole := decimal_wholeDigits_lt (hrun.trans hcap)
  have hfrac := decimal_fraction_lt num
  have hvalue : numvalExact num ≤ 10 ^ 19 - 1 := by
    rw [numvalExact_eq]
    omega
  refine ⟨hrun, hcap, by omega, hvalue, ?_⟩
  rw [numval, BitVec.toNat_ofNat]
  exact Nat.mod_eq_of_lt (by omega)

/-! ### What a field id updates (R91, R172 to R176) -/

theorem fieldTarget_replace {id : BitVec 4} {i : Fin 5} (h : id.toNat = i.val + 1) : fieldTarget id = .replace i := by
  unfold fieldTarget
  rw [h]
  fin_cases i <;> rfl

theorem fieldTarget_aggregate {id : BitVec 4} {k : Fin 8} (h : id.toNat = k.val + 6) :
    fieldTarget id = .aggregate k := by
  unfold fieldTarget
  rw [h]
  fin_cases k <;> rfl

section update
variable (a : Acc) (v : Word) (k : Fin 8)

@[simp] theorem Acc.update_aggregate_n : (a.update (.aggregate k) v).n = a.n := rfl

/-- An aggregate update adds the value to its own metric (R174). -/
theorem Acc.update_aggregate_self :
    (a.update (.aggregate k) v).m[k] = a.m[k].add (a.n == 0#32) v :=
  Vector.getElem_set_self k.isLt

/-- An aggregate update leaves the other metrics (R174). -/
theorem Acc.update_aggregate_of_ne {j : Fin 8} (h : j ≠ k) : (a.update (.aggregate k) v).m[j] = a.m[j] :=
  Vector.getElem_set_ne k.isLt j.isLt (Fin.val_ne_of_ne h.symm)

end update

section add
variable (first : Bool) (v : Word) (x : Metric)

theorem Metric.add_min_toNat :
    (x.add first v).min.toNat = if first then v.toNat else Min.min x.min.toNat v.toNat := by
  unfold Metric.add
  cases first
  · simp only [Bool.false_eq_true, if_false]
    split <;> omega
  · rfl

/-- A 64-bit value is added to the 128-bit sum as it is (R174). -/
theorem Metric.add_sum_toNat : (x.add first v).sum.toNat = (x.sum.toNat + v.toNat) % 2 ^ 128 := by
  simp [Metric.add]

theorem Metric.add_max_toNat : (x.add first v).max.toNat = Max.max x.max.toNat v.toNat := by
  unfold Metric.add
  dsimp only
  split <;> omega

end add

/-- Settles O39, by the target of each id. -/
theorem updateRules : Obligations.UpdateRules := by
  refine fun a v id => ⟨fun i hid => ?_, fun k hid => ?_, ?_⟩
  · rw [fieldTarget_replace hid]
    rfl
  · rw [fieldTarget_aggregate hid]
    refine ⟨rfl, rfl, fun j hj => a.update_aggregate_of_ne v k hj, ?_, ?_, ?_⟩ <;>
      rw [Acc.update_aggregate_self]
    · simp [Metric.add_min_toNat]
    · exact Metric.add_sum_toNat _ _ _
    · exact Metric.add_max_toNat _ _ _
  · rintro (rfl | rfl) <;> rfl

/-- Settles O42: with `acc.n = 0` the minimum is written as it comes; 0 is below every value. -/
theorem minimumCorners : Obligations.MinimumCorners := by
  refine ⟨fun a k v w hn => ?_, fun a k v hn hmin => ?_⟩
  · rw [Acc.update_aggregate_self, Acc.update_aggregate_self]
    simp [hn, Metric.add]
  · apply BitVec.eq_of_toNat_eq
    rw [Acc.update_aggregate_self, Metric.add_min_toNat, hmin]
    simp [hn]

/-! ### Dispatch (R172) -/

/-- Settles O40: the one entry of a tag is its first, and the gas id is the one exception for Grammar B. -/
theorem dispatchByTag : Obligations.DispatchByTag := by
  refine ⟨fun cfg tag id pre post htable honce => ?_, fun cfg tag => Config.lookup_of_notMem, fun cfg b r => ⟨?_, ?_⟩⟩
  · exact Config.lookup_of_first htable fun e he => honce e (List.mem_append_left _ he)
  · intro hcounts
    refine if_neg ?_
    rintro ⟨hb, hgas⟩
    obtain ha | hid := hcounts
    · simp [ha] at hb
    · exact hgas hid
  · exact fun hb hgas => if_pos ⟨hb, hgas⟩

/-! ### The loop over the lines (R160 to R164, R168, R169, R177, R178) -/

theorem skipLine_of_head? {line : List Byte} {x : Byte} (hx : line.head? = some x) :
    skipLine line = (x == chSlash || decide (x.toNat < 0x20)) := by
  obtain ⟨rest, rfl⟩ := List.head?_eq_some_iff.mp hx
  rfl

theorem stopLine_of_head? {line : List Byte} {x : Byte} (hx : line.head? = some x) :
    stopLine line = (x == chBang) := by
  obtain ⟨rest, rfl⟩ := List.head?_eq_some_iff.mp hx
  rfl

section parseLines
variable {cfg : Config} {b : Block} {line : List Byte} {lines : List (List Byte)}

theorem Block.parseLines_nil : b.parseLines cfg [] = b.countTelegram := rfl

theorem Block.parseLines_skip (h : skipLine line = true) :
    b.parseLines cfg (line :: lines) = b.parseLines cfg lines := by
  rw [Block.parseLines, if_pos h]

theorem Block.parseLines_stop (hskip : skipLine line = false) (h : stopLine line = true) :
    b.parseLines cfg (line :: lines) = b.countTelegram := by
  rw [Block.parseLines, if_neg (by simp [hskip]), if_pos h]

theorem Block.parseLines_unmatched (hskip : skipLine line = false) (hstop : stopLine line = false)
    (h : matchLine line = none) : b.parseLines cfg (line :: lines) = b.parseLines cfg lines := by
  simp [Block.parseLines, hskip, hstop, h]

theorem Block.parseLines_matched {r : FieldMatch} (hskip : skipLine line = false) (hstop : stopLine line = false)
    (h : matchLine line = some r) :
    b.parseLines cfg (line :: lines) =
      if cfg.fieldCap < r.num.length then b.fieldError cfg else (b.applyField cfg r).parseLines cfg lines := by
  simp [Block.parseLines, hskip, hstop, h]

end parseLines

/-- Settles O41: the loop, case by case on the first byte of the line and on its match. -/
theorem parseLoop : Obligations.ParseLoop := by
  refine ⟨fun cfg b tel t => rfl, fun cfg b line lines =>
    ⟨Block.parseLines_nil, fun hskip => Block.parseLines_skip ?_, fun hbang => ?_, fun x hx hlo hslash hbang => ?_⟩⟩
  · obtain rfl | hslash | ⟨x, hx, hcontrol⟩ := hskip
    · rfl
    · rw [skipLine_of_head? hslash]
      rfl
    · simp [skipLine_of_head? hx, hcontrol]
  · have hskip : skipLine line = false := by
      rw [skipLine_of_head? hbang]
      rfl
    have hstop : stopLine line = true := by
      rw [stopLine_of_head? hbang]
      rfl
    exact Block.parseLines_stop hskip hstop
  · have hskip : skipLine line = false := by
      simp [skipLine_of_head? hx, hslash, hlo]
    have hstop : stopLine line = false := by
      simp [stopLine_of_head? hx, hbang]
    refine ⟨Block.parseLines_unmatched hskip hstop, fun r hr => ?_⟩
    rw [Block.parseLines_matched hskip hstop hr]
    refine ⟨fun hlong => ?_, fun hfits => if_neg hfits.not_gt⟩
    rw [if_pos hlong, Block.fieldError_eq, Bool.or_comm]
    rfl

end Sys2Proof.Machine

/-! PROOFS. The Window Accumulator: `WINDOW_SELECT` and `FINALIZE` (R200 to R206), a telegram as the updates its lines make
(R160, R172), and the Sample of a window whose telegrams carry a metric once each (R212). -/

namespace Sys2Proof.Machine

/-! ### `WINDOW_SELECT` and `FINALIZE` (R200 to R206) -/

/-- Settles O43: the three cases of `WINDOW_SELECT`, each excluding the other two. -/
theorem windowSelection : Obligations.WindowSelection := by
  intro cfg t b bucket fresh
  obtain ⟨hoff, hselect⟩ | ⟨hon, hother, hselect⟩ | ⟨hon, hsame, hselect⟩ := b.selectWindow_cases cfg t
  · exact ⟨fun _ => hselect, fun h => absurd h (by simp [hoff]), fun h => absurd h (by simp [hoff])⟩
  · exact ⟨fun h => absurd h (by simp [hon]), fun _ _ => hselect, fun _ h => absurd h hother⟩
  · exact ⟨fun h => absurd h (by simp [hon]), fun _ h => absurd hsame h, fun _ _ => hselect⟩

/-- Below `EMPTY_TS` the start of a window does not wrap (R206). -/
theorem windowStart_toNat {cfg : Config} {bucket : Word} (h : bucket.toNat * cfg.w ≤ 2 ^ 64 - 2) :
    (windowStart cfg bucket).toNat = bucket.toNat * cfg.w := by
  rw [windowStart, BitVec.toNat_ofNat]
  exact Nat.mod_eq_of_lt (by omega)

theorem average_toNat (sum : BitVec 128) (n : BitVec 32) :
    (average sum n).toNat = sum.toNat / n.toNat % 2 ^ 64 := BitVec.toNat_ofNat ..

/-- Each metric of the Sample is the summary of the accumulator's (R206). -/
@[simp] theorem Block.finalSample_m (cfg : Config) (b : Block) (k : Fin 8) :
    (b.finalSample cfg).m[k] = b.acc.m[k].summary b.acc.n := Vector.getElem_map ..

/-- Settles O44: an empty window raises `EMPTY_WIN`, and the Sample pushed for any other is `finalSample`. -/
theorem finalizeBuildsSample : Obligations.FinalizeBuildsSample := by
  intro cfg b
  obtain ⟨hempty, hfinal⟩ | ⟨hsome, hfinal⟩ := b.finalize_cases cfg
  · exact ⟨fun _ => hfinal, fun h => absurd hempty h⟩
  · refine ⟨fun h => absurd h hsome, fun _ => ⟨b.finalSample cfg, hfinal, windowStart_toNat, rfl, rfl, fun k => ?_⟩⟩
    rw [Block.finalSample_m]
    exact ⟨rfl, average_toNat _ _, rfl⟩

/-! ### A telegram as its updates (R160, R172) -/

/-- The accumulator after the updates of a telegram, in order. -/
def Acc.updates (us : List (Target × Word)) (a : Acc) : Acc := us.foldl (fun a u => a.update u.1 u.2) a

theorem Acc.updates_cons (u : Target × Word) (us : List (Target × Word)) (a : Acc) :
    a.updates (u :: us) = (a.update u.1 u.2).updates us := rfl

/-- No update counts a telegram (R173 to R177). -/
@[simp] theorem Acc.update_n (target : Target) (v : Word) (a : Acc) : (a.update target v).n = a.n := by
  cases target <;> rfl

@[simp] theorem Acc.updates_n (us : List (Target × Word)) (a : Acc) : (a.updates us).n = a.n := by
  induction us generalizing a with
  | nil => rfl
  | cons u us ih => rw [Acc.updates_cons, ih, Acc.update_n]

/-- Only the updates of its own ids change a metric (R173 to R176). -/
theorem Acc.update_m_of_ne {target : Target} {k : Fin 8} (h : target ≠ .aggregate k) (v : Word) (a : Acc) :
    (a.update target v).m[k] = a.m[k] := by
  cases target with
  | aggregate j => exact a.update_aggregate_of_ne v j fun hkj => h (hkj ▸ rfl)
  | replace i => rfl
  | reserved => rfl
  | ignore => rfl

theorem metricValues_cons_self (k : Fin 8) (v : Word) (us : List (Target × Word)) :
    metricValues k ((.aggregate k, v) :: us) = v :: metricValues k us := by
  simp [metricValues]

theorem metricValues_cons_of_ne {target : Target} {k : Fin 8} (h : target ≠ .aggregate k) (v : Word)
    (us : List (Target × Word)) : metricValues k ((target, v) :: us) = metricValues k us := by
  simp [metricValues, h]

/-- After a telegram's updates a metric has taken the values the telegram gives it, in order (R174). -/
theorem Acc.updates_m (k : Fin 8) (us : List (Target × Word)) (a : Acc) :
    (a.updates us).m[k] = (metricValues k us).foldl (fun x v => x.add (a.n == 0#32) v) a.m[k] := by
  induction us generalizing a with
  | nil => rfl
  | cons u us ih =>
    obtain ⟨target, v⟩ := u
    rw [Acc.updates_cons, ih, Acc.update_n]
    by_cases h : target = .aggregate k
    · subst h
      rw [metricValues_cons_self, List.foldl_cons, Acc.update_aggregate_self]
    · rw [metricValues_cons_of_ne h, Acc.update_m_of_ne h]

/-- A Grammar B match of any but the gas id is ignored (R172). -/
theorem Block.applyField_of_ignored {cfg : Config} {r : FieldMatch} (h : r.grammar = .b ∧ cfg.lookup r.tag ≠ 5#4)
    (b : Block) : b.applyField cfg r = b := if_pos h

/-- Any other match updates the accumulator (R172). -/
theorem Block.applyField_of_counts {cfg : Config} {r : FieldMatch} (h : ¬(r.grammar = .b ∧ cfg.lookup r.tag ≠ 5#4))
    (b : Block) :
    b.applyField cfg r = { b with acc := b.acc.update (fieldTarget (cfg.lookup r.tag)) (numval r.num) } := if_neg h

/-- A loop over lines without a field error makes their updates and counts the telegram (R160, R172, R177). -/
theorem Block.parseLines_of_lineUpdates {cfg : Config} {lines : List (List Byte)} {us : List (Target × Word)} {b : Block}
    (h : lineUpdates cfg lines = some us) :
    b.parseLines cfg lines = ({ b with acc := b.acc.updates us } : Block).countTelegram := by
  fun_induction lineUpdates cfg lines generalizing b us with
  | case1 => cases h; rfl
  | case2 line lines hskip ih => rw [Block.parseLines_skip hskip, ih h]
  | case3 line lines hskip hstop =>
    cases h
    exact Block.parseLines_stop (Bool.eq_false_iff.mpr hskip) hstop
  | case4 line lines hskip hstop hnone ih =>
    rw [Block.parseLines_unmatched (Bool.eq_false_iff.mpr hskip) (Bool.eq_false_iff.mpr hstop) hnone, ih h]
  | case5 => cases h
  | case6 line lines hskip hstop r hmatch hfits hignored ih =>
    rw [Block.parseLines_matched (Bool.eq_false_iff.mpr hskip) (Bool.eq_false_iff.mpr hstop) hmatch, if_neg hfits,
      Block.applyField_of_ignored hignored, ih h]
  | case7 line lines hskip hstop r hmatch hfits hcounts ih =>
    obtain ⟨us, hus, rfl⟩ := Option.map_eq_some_iff.mp h
    rw [Block.parseLines_matched (Bool.eq_false_iff.mpr hskip) (Bool.eq_false_iff.mpr hstop) hmatch, if_neg hfits,
      Block.applyField_of_counts hcounts, ih hus, Acc.updates_cons]

/-- A telegram of the active window that carries metric `k` once counts once and adds its value to the metric (R174, R177,
R202). -/
theorem Block.parse_of_carriesOnce {cfg : Config} {b : Block} {k : Fin 8} {tel : List Byte} {t v : Word}
    (hactive : b.winActive = true) (hbucket : bucketOf cfg t = b.winBucket) (h : carriesOnce cfg k tel v) :
    ∃ acc : Acc, b.parse cfg tel t = { b with acc := acc } ∧ acc.n = b.acc.n + 1#32 ∧
      acc.m[k] = b.acc.m[k].add (b.acc.n == 0#32) v := by
  obtain ⟨us, hus, honce⟩ := h
  obtain ⟨-, -, hkeeps⟩ := windowSelection cfg t b
  have hmetric := b.acc.updates_m k us
  rw [honce] at hmetric
  refine ⟨{ b.acc.updates us with n := b.acc.n + 1#32 }, ?_, rfl, hmetric⟩
  rw [Block.parse, hkeeps hactive hbucket, Block.parseLines_of_lineUpdates hus, Block.countTelegram, Acc.updates_n]

/-! ### The Sample of a window (R212) -/

/-- The values are summed up by the metric: its minimum and maximum are among them and bound them, and its sum is theirs. -/
structure Metric.Summarises (vs : List Word) (x : Metric) : Prop where
  min_mem : x.min ∈ vs
  max_mem : x.max ∈ vs
  bounds : ∀ v ∈ vs, x.min.toNat ≤ v.toNat ∧ v.toNat ≤ x.max.toNat
  sum_eq : x.sum.toNat = (vs.map BitVec.toNat).sum

/-- The accumulator has counted one telegram for each value, and metric `k` sums the values up. -/
structure Acc.Summarises (k : Fin 8) (vs : List Word) (a : Acc) : Prop where
  count : a.n.toNat = vs.length
  metric : a.m[k].Summarises vs

theorem sum_toNat_le_length_mul (vs : List Word) : (vs.map BitVec.toNat).sum ≤ vs.length * (2 ^ 64 - 1) := by
  have hle : ∀ n ∈ vs.map BitVec.toNat, n ≤ 2 ^ 64 - 1 := by
    intro n hn
    obtain ⟨v, -, rfl⟩ := List.mem_map.mp hn
    have hlt := v.isLt
    omega
  simpa using List.sum_le_card_nsmul _ _ hle

/-- The first value of a fresh metric is its minimum, its maximum and its sum (R174). -/
theorem Metric.summarises_first (v : Word) :
    (Metric.add true v ⟨0#64, 0#128, 0#64⟩).Summarises [v] := by
  have hmax : (Metric.add true v ⟨0#64, 0#128, 0#64⟩).max = v := by
    apply BitVec.eq_of_toNat_eq
    simp [Metric.add_max_toNat]
  refine ⟨List.mem_singleton.mpr rfl, List.mem_singleton.mpr hmax, ?_, ?_⟩
  · intro w hw
    obtain rfl := List.mem_singleton.mp hw
    rw [hmax]
    exact ⟨le_rfl, le_rfl⟩
  · have hlt := v.isLt
    rw [Metric.add_sum_toNat]
    exact (Nat.mod_eq_of_lt (by simp; omega)).trans (by simp)

/-- A further value keeps the summary, as long as the sum fits (R174). -/
theorem Metric.Summarises.add {vs : List Word} {x : Metric} (h : x.Summarises vs) (v : Word)
    (hfits : vs.length < 2 ^ 32) : (x.add false v).Summarises (vs ++ [v]) where
  min_mem := by
    have hmem := h.min_mem
    simp only [Metric.add, Bool.false_eq_true, if_false]
    split <;> simp [hmem]
  max_mem := by
    have hmem := h.max_mem
    simp only [Metric.add]
    split <;> simp [hmem]
  bounds := by
    intro w hw
    rw [Metric.add_min_toNat, Metric.add_max_toNat, if_neg Bool.false_ne_true]
    obtain hold | hnew := List.mem_append.mp hw
    · have hbounds := h.bounds w hold
      omega
    · obtain rfl := List.mem_singleton.mp hnew
      omega
  sum_eq := by
    have hle := sum_toNat_le_length_mul vs
    have hlt := v.isLt
    rw [Metric.add_sum_toNat, h.sum_eq, List.map_append, List.sum_append, List.map_singleton, List.sum_singleton]
    exact Nat.mod_eq_of_lt (by omega)

/-- Every further telegram of the window that carries metric `k` once adds its value to the summary. -/
theorem Block.parse_foldl_summarises {cfg : Config} {k : Fin 8} {tels : List (List Byte × Word)} {vs ws : List Word}
    {b : Block} (hactive : b.winActive = true)
    (hbucket : ∀ tel ∈ tels, bucketOf cfg tel.2 = b.winBucket)
    (hcarry : List.Forall₂ (fun tel v => carriesOnce cfg k tel.1 v) tels vs)
    (hfits : ws.length + tels.length < 2 ^ 32) (h : b.acc.Summarises k ws) :
    (tels.foldl (fun b tel => b.parse cfg tel.1 tel.2) b).acc.Summarises k (ws ++ vs) := by
  induction hcarry generalizing b ws with
  | nil => simpa using h
  | @cons tel v tels vs hone _ ih =>
    obtain ⟨hhead, htail⟩ := List.forall_mem_cons.mp hbucket
    obtain ⟨acc, hparse, hn, hm⟩ := Block.parse_of_carriesOnce hactive hhead hone
    have hcount := h.count
    rw [List.length_cons] at hfits
    have hnonempty : ws ≠ [] := List.ne_nil_of_mem h.metric.min_mem
    have hlater : (b.acc.n == 0#32) = false := by
      have hpos := List.length_pos_iff.mpr hnonempty
      rw [beq_eq_false_iff_ne]
      bv_omega
    have hstep : acc.Summarises k (ws ++ [v]) := by
      refine ⟨?_, ?_⟩
      · rw [hn, List.length_append, List.length_singleton]
        bv_omega
      · rw [hm, hlater]
        exact h.metric.add v (by omega)
    rw [List.foldl_cons, hparse, List.append_cons]
    exact ih hactive htail (by simp; omega) hstep

/-- A fresh window sums up the values of its telegrams, one from each. -/
theorem Block.parse_foldl_summarises_of_fresh {cfg : Config} {k : Fin 8} {tels : List (List Byte × Word)} {vs : List Word}
    {b : Block} (hactive : b.winActive = true) (hfresh : b.acc = freshAcc)
    (hbucket : ∀ tel ∈ tels, bucketOf cfg tel.2 = b.winBucket)
    (hcarry : List.Forall₂ (fun tel v => carriesOnce cfg k tel.1 v) tels vs)
    (hsome : tels ≠ []) (hfits : tels.length < 2 ^ 32) :
    (tels.foldl (fun b tel => b.parse cfg tel.1 tel.2) b).acc.Summarises k vs := by
  cases hcarry with
  | nil => exact absurd rfl hsome
  | @cons tel v tels vs hone hrest =>
    obtain ⟨hhead, htail⟩ := List.forall_mem_cons.mp hbucket
    obtain ⟨acc, hparse, hn, hm⟩ := Block.parse_of_carriesOnce hactive hhead hone
    have hzero : freshAcc.m[k] = ⟨0#64, 0#128, 0#64⟩ := Vector.getElem_replicate ..
    have hfirst : acc.Summarises k [v] := by
      rw [hfresh] at hn hm
      refine ⟨by rw [hn]; rfl, ?_⟩
      rw [hm, hzero]
      exact Metric.summarises_first v
    rw [List.foldl_cons, hparse]
    exact Block.parse_foldl_summarises (ws := [v]) hactive htail hrest (by rwa [List.length_singleton, Nat.add_comm]) hfirst

/-- The average of the summed up values is their floored mean: neither their sum nor the mean wraps (R206). -/
theorem Acc.Summarises.average_eq {k : Fin 8} {vs : List Word} {a : Acc} (h : a.Summarises k vs) :
    (average a.m[k].sum a.n).toNat = (vs.map BitVec.toNat).sum / vs.length := by
  have hle := sum_toNat_le_length_mul vs
  have hpos : 0 < vs.length := List.length_pos_of_mem h.metric.min_mem
  rw [average_toNat, h.metric.sum_eq, h.count]
  refine Nat.mod_eq_of_lt ((Nat.div_lt_iff_lt_mul hpos).mpr ?_)
  omega

/-- Settles O52: the accumulator sums up the telegrams' values, and its Sample shows the summary. -/
theorem windowRolloverLaw : Obligations.WindowRolloverLaw := by
  intro cfg b k tels vs _ hactive hfresh hbucket hcarry hsome hfits s
  have hsums := Block.parse_foldl_summarises_of_fresh hactive hfresh hbucket hcarry hsome hfits
  have hm : s.m[k] = Metric.summary _ _ := Block.finalSample_m ..
  rw [hm, hcarry.length_eq]
  exact ⟨hsums.count, hsums.metric.min_mem, hsums.metric.max_mem, hsums.metric.bounds, hsums.average_eq⟩

end Sys2Proof.Machine

/-! PROOFS. The Sample Ring Buffer: what `PUSH` stores and counts (R232, R233), what `POP` delivers (R238 to R241), and what a
sequence of pushes leaves in the ring (R236). -/

namespace Sys2Proof.Machine

/-! ### `PUSH` (R232, R233) -/

/-- A slot is occupied when its window start is not `EMPTY_TS` (R31). -/
theorem Block.occupied_iff {b : Block} {i : BitVec 8} :
    b.occupied i = true ↔ (b.slots.getD i.toNat emptySample).ws ≠ 0xFFFFFFFFFFFFFFFF#64 := Sample.real_iff _

theorem Block.ringFull_iff {b : Block} : b.ringFull = true ↔ b.wr = b.rd ∧ b.occupied b.rd = true := by
  simp [Block.ringFull]

/-- Into a full ring the Sample takes the slot of the one dropped: the cursors meet there (R232). -/
theorem Block.push_of_full {cfg : Config} {b : Block} {s : Sample} (h : b.ringFull = true) :
    b.push cfg s =
      { b with
        slots := b.slots.set b.wr.toNat s
        rd := nextCursor cfg b.rd
        wr := nextCursor cfg b.wr
        cnt := (b.raise .evict).cnt.set Event.samplePushed.index (b.cnt[Event.samplePushed.index] + 1#32) } := by
  obtain ⟨-, hpush⟩ | ⟨hroom, -⟩ := b.push_cases cfg s
  · obtain ⟨hmeet, -⟩ := Block.ringFull_iff.mp h
    have hslots : (b.slots.set b.rd.toNat emptySample).set b.wr.toNat s = b.slots.set b.wr.toNat s := by
      rw [hmeet, List.set_set]
    have hcount : (b.raise .evict).cnt[Event.samplePushed.index] = b.cnt[Event.samplePushed.index] :=
      b.count_raise .evict .samplePushed
    rw [hpush, ← hslots, ← hcount]
    rfl
  · exact absurd h (by simp [hroom])

/-- Where there is room nothing leaves the ring (R232). -/
theorem Block.push_of_room {cfg : Config} {b : Block} {s : Sample} (h : b.ringFull = false) :
    b.push cfg s = b.storeSample cfg s := by
  obtain ⟨hfull, -⟩ | ⟨-, hpush⟩ := b.push_cases cfg s
  · exact absurd hfull (by simp [h])
  · exact hpush

/-- Settles O45: a full ring is one whose cursors meet on an occupied slot, and every other ring has room. -/
theorem pushStoresSample : Obligations.PushStoresSample := by
  refine fun cfg b s => ⟨fun hmeet hreal => ?_, fun hroom => ?_⟩
  · exact Block.push_of_full (Block.ringFull_iff.mpr ⟨hmeet, Block.occupied_iff.mpr hreal⟩)
  · refine Block.push_of_room (Bool.eq_false_iff.mpr fun hfull => ?_)
    obtain ⟨hmeet, hocc⟩ := Block.ringFull_iff.mp hfull
    obtain hapart | hfree := hroom
    · exact hapart hmeet
    · exact Block.occupied_iff.mp hocc hfree

/-! ### `POP` (R238 to R241) -/

/-- Outside Ready `POP` is accepted, halted or not (R241, R242). -/
theorem exec_pop_of_not_ready {s : State} (h : s.block.fsm ≠ .ready) : exec .pop s = .next (popSample s) := by
  have hfree : s.block.holds opPop = false :=
    Block.holds_of_not_busy (Bool.eq_false_iff.mpr (mt s.block.busy_iff.mp h)) opPop
  rw [exec_eq_accept]
  simp [accept, opcode, hfree, Instr.wf, effectOf]

theorem popSample_of_occupied {s : State} (h : s.block.occupied s.block.rd = true) :
    popSample s =
      { s with block := s.block.dropOldest s.cfg }.respond ⟨.sample, .record (s.block.slot s.block.rd).record⟩ :=
  if_pos h

theorem popSample_of_not_occupied {s : State} (h : s.block.occupied s.block.rd = false) :
    popSample s = s.respond (bareResponse .empty) := if_neg (Bool.eq_false_iff.mp h)

/-- Settles O6: `POP` is accepted, and its effect looks at the slot at `rd`. -/
theorem popDeliversOldest : Obligations.PopDeliversOldest := by
  intro s hfsm
  rw [exec_pop_of_not_ready hfsm]
  refine ⟨fun hreal => ?_, fun hempty => ?_⟩
  · rw [popSample_of_occupied (Block.occupied_iff.mpr hreal)]
    rfl
  · have hfree : s.block.occupied s.block.rd = false :=
      Bool.eq_false_iff.mpr fun hocc => Block.occupied_iff.mp hocc hempty
    rw [popSample_of_not_occupied hfree]
    rfl

/-! ### A sequence of pushes (R236) -/

/-- `EVICT` counts a push into a full ring, and no other (R232). -/
theorem Block.count_push_evict (cfg : Config) (s : Sample) (b : Block) :
    (b.push cfg s).count .evict = if b.ringFull = true then b.count .evict + 1#32 else b.count .evict := by
  obtain ⟨hfull, hpush⟩ | ⟨hroom, hpush⟩ := b.push_cases cfg s <;> rw [hpush, Block.count_storeSample]
  · simp [hfull, Block.count_raise, Block.count_dropOldest]
  · simp [hroom]

/-- `SAMPLE_PUSHED` counts every push (R232). -/
theorem Block.count_push_samplePushed (cfg : Config) (s : Sample) (b : Block) :
    (b.push cfg s).count .samplePushed = b.count .samplePushed + 1#32 := by
  obtain ⟨-, hpush⟩ | ⟨-, hpush⟩ := b.push_cases cfg s <;> rw [hpush, Block.count_storeSample, if_pos rfl]
  simp [Block.count_raise, Block.count_dropOldest]

/-- The last `c` elements of a list and one more: the oldest of them leaves when there were `c` already. -/
theorem drop_length_sub_concat {α : Type*} {c : Nat} (hc : 1 ≤ c) (xs : List α) (x : α) :
    (xs ++ [x]).drop ((xs ++ [x]).length - c) =
      (if min xs.length c = c then (xs.drop (xs.length - c)).tail else xs.drop (xs.length - c)) ++ [x] := by
  rw [List.drop_append_of_le_length (by simp; omega), List.length_append, List.length_singleton]
  congr 1
  split
  next hfull =>
    rw [List.tail_drop]
    congr 1
    omega
  next hroom =>
    congr 1
    omega

/-- What R236 says of `t`, which the pushes of `ss` have made from `b`: it holds the last `C` of them, and each of the others
was evicted. -/
structure Block.KeepsLast (cfg : Config) (b : Block) (ss : List Sample) (t : Block) : Prop where
  holds : t.RingHolds cfg (min ss.length cfg.c)
  ringList_eq : t.ringList cfg = ss.drop (ss.length - cfg.c)
  count_evict : t.count .evict = b.count .evict + BitVec.ofNat 32 (ss.length - cfg.c)
  count_samplePushed : t.count .samplePushed = b.count .samplePushed + BitVec.ofNat 32 ss.length

section keepsLast
variable {cfg : Config} {b t : Block} {ss : List Sample} {s : Sample}

/-- An empty ring keeps all of no pushes. -/
theorem Block.keepsLast_nil (h : b.RingHolds cfg 0) : b.KeepsLast cfg [] b where
  holds := by simpa using h
  ringList_eq := by simp [h.ringList_eq]
  count_evict := by simp
  count_samplePushed := by simp

/-- One push more: `EVICT` counts it exactly when `C` Samples were held (R232). -/
theorem Block.KeepsLast.push (h : b.KeepsLast cfg ss t) (hfits : cfg.c ≤ 255) (hs : s.real = true) :
    b.KeepsLast cfg (ss ++ [s]) (t.push cfg s) where
  holds := by
    have hcount : min (ss ++ [s]).length cfg.c =
        if min ss.length cfg.c = cfg.c then min ss.length cfg.c else min ss.length cfg.c + 1 := by
      rw [List.length_append, List.length_singleton]
      split <;> omega
    rw [hcount]
    exact (h.holds.push hfits hs).1
  ringList_eq := by
    rw [(h.holds.push hfits hs).2, h.ringList_eq, drop_length_sub_concat (Nat.one_le_of_lt h.holds.rd_lt)]
  count_evict := by
    rw [Block.count_push_evict, h.count_evict, List.length_append, List.length_singleton]
    split
    next hfull =>
      have hheld := h.holds.ringFull_iff.mp hfull
      rw [show ss.length + 1 - cfg.c = ss.length - cfg.c + 1 by omega, BitVec.ofNat_add, BitVec.add_assoc]
    next hroom =>
      have hheld := mt h.holds.ringFull_iff.mpr hroom
      rw [show ss.length + 1 - cfg.c = ss.length - cfg.c by omega]
  count_samplePushed := by
    rw [Block.count_push_samplePushed, h.count_samplePushed, List.length_append, List.length_singleton,
      BitVec.ofNat_add, BitVec.add_assoc]

/-- Pushes into an empty ring leave the last `C` of them (R236). -/
theorem Block.keepsLast_foldl_push (h : b.RingHolds cfg 0) (hfits : cfg.c ≤ 255) (hss : ∀ s ∈ ss, s.real = true) :
    b.KeepsLast cfg ss (ss.foldl (fun b s => b.push cfg s) b) := by
  induction ss using List.reverseRecOn with
  | nil => exact Block.keepsLast_nil h
  | append_singleton ss s ih =>
    obtain ⟨hinit, hlast⟩ := List.forall_mem_append.mp hss
    rw [List.foldl_append]
    exact (ih hinit).push hfits (hlast s (List.mem_singleton.mpr rfl))

end keepsLast

/-- Settles O48: by induction on the pushes, the last one last. -/
theorem overwriteLaw : Obligations.OverwriteLaw := by
  intro cfg b ss hwf hring hempty hss t
  have hzero : b.RingHolds cfg 0 := hempty ▸ hring.holds
  have hkeeps : b.KeepsLast cfg ss t :=
    Block.keepsLast_foldl_push hzero (capacity_bounds hwf).2 fun s hs => s.real_iff.mpr (hss s hs)
  exact ⟨hkeeps.ringList_eq, hkeeps.holds.rbCount_eq, hkeeps.count_evict, hkeeps.count_samplePushed⟩

end Sys2Proof.Machine

/-! PROOFS. The control commands `NOP`, `SETNOW`, `RDREG` and `CLRSTAT` (R260 to R264), and what a step makes of the word it
takes from the command port (R266 to R268). -/

namespace Sys2Proof.Machine

/-! ### `ACCEPT`, outcome by outcome (R268, R340) -/

section exec
variable {i : Instr} {s : State}

/-- A held command changes nothing and has no response yet (R340). -/
theorem exec_of_holds (h : s.block.holds (opcode i) = true) : exec i s = .next s := by
  rw [exec_eq_accept]
  simp [accept, h]

/-- A legal command that is not held takes effect (R268). -/
theorem exec_of_legal (hfree : s.block.holds (opcode i) = false) (hlegal : i.wf = true) :
    exec i s = .next (effectOf i s) := by
  rw [exec_eq_accept]
  simp [accept, hfree, hlegal]

/-- A command with an illegal operand that is not held is rejected (R267, R268). -/
theorem exec_of_not_legal (hfree : s.block.holds (opcode i) = false) (hillegal : i.wf = false) :
    exec i s = .next s.rejectIllegal := by
  rw [exec_eq_accept]
  simp [accept, hfree, hillegal]

end exec

theorem Block.not_busy_of_not_ready {b : Block} (h : b.fsm ≠ .ready) : b.busy = false :=
  Bool.eq_false_iff.mpr (mt b.busy_iff.mp h)

/-- Outside Ready no command is held (R340). -/
theorem Block.holds_of_not_ready {b : Block} (h : b.fsm ≠ .ready) (op : Byte) : b.holds op = false :=
  Block.holds_of_not_busy (Block.not_busy_of_not_ready h) op

/-- In Ready the opcodes that may be held are held (R340). -/
theorem Block.holds_of_ready {b : Block} {op : Byte} (h : b.fsm = .ready) (hheld : heldOpcode op = true) :
    b.holds op = true := by
  simp [Block.holds, b.busy_iff.mpr h, hheld]

/-! ### The control commands (R260 to R264) -/

theorem timeLegal_iff (t : Word) : timeLegal t = true ↔ t ≠ 0xFFFFFFFFFFFFFFFF#64 := bne_iff_ne

theorem indexLegal_iff (idx : Byte) : indexLegal idx = true ↔ idx.toNat < 15 := decide_eq_true_iff

/-- Settles O1: outside Ready `NOP` takes effect, in Ready it is held. -/
theorem nopRespondsOk : Obligations.NopRespondsOk := by
  refine fun s => ⟨fun hfsm => ?_, fun hready => ?_⟩
  · exact exec_of_legal (Block.holds_of_not_ready hfsm _) rfl
  · exact exec_of_holds (Block.holds_of_ready hready rfl)

/-- Settles O2: outside Ready the legality of the time decides between effect and rejection; in Ready `SETNOW` is held. -/
theorem setnowWritesNow : Obligations.SetnowWritesNow := by
  refine fun s t => ⟨fun hfsm htime => ?_, fun hfsm htime => ?_, fun hready => ?_⟩
  · exact exec_of_legal (Block.holds_of_not_ready hfsm _) ((timeLegal_iff t).mpr htime)
  · have hillegal : timeLegal t = false := Bool.eq_false_iff.mpr fun h => (timeLegal_iff t).mp h htime
    exact exec_of_not_legal (i := .setnow t) (Block.holds_of_not_ready hfsm _) hillegal
  · exact exec_of_holds (Block.holds_of_ready hready rfl)

/-- Settles O3: `RDREG` is never held, so the legality of the index alone decides. -/
theorem rdregAnswersRegister : Obligations.RdregAnswersRegister := by
  refine fun s idx => ⟨fun hdefined => ?_, fun hreserved => ?_⟩
  · exact exec_of_legal s.block.holds_rdreg ((indexLegal_iff idx).mpr hdefined)
  · have hillegal : indexLegal idx = false :=
      Bool.eq_false_iff.mpr fun h => Nat.not_lt.mpr hreserved ((indexLegal_iff idx).mp h)
    exact exec_of_not_legal (i := .rdreg idx) s.block.holds_rdreg hillegal

/-- Settles O4: outside Ready `CLRSTAT` takes effect, in Ready it is held. -/
theorem clrstatZeroesCounters : Obligations.ClrstatZeroesCounters := by
  refine fun s => ⟨fun hfsm => ?_, fun hready => ?_⟩
  · exact exec_of_legal (Block.holds_of_not_ready hfsm _) rfl
  · exact exec_of_holds (Block.holds_of_ready hready rfl)

/-! ### The word at the command port (R37, R266 to R268) -/

/-- The opcodes that are not held while BUSY, by their rows in the opcode map (R82, R340). -/
theorem heldOpcode_eq_false_iff (op : Byte) : heldOpcode op = false ↔ op = opRdreg ∨ op = opSreset := by
  unfold heldOpcode
  by_cases h : op = opRdreg <;> simp [h]

/-- A presented word is taken outside Ready, and in every state if it is not held and stands ahead of `EVAL` (R71, R340). -/
theorem Block.takes_of_accepted {b : Block} {p : Presentation}
    (h : b.fsm ≠ .ready ∨ (opOf p.word = opRdreg ∨ opOf p.word = opSreset) ∧ p.ahead = true) :
    b.takes p = true := by
  obtain hfsm | ⟨hop, hahead⟩ := h
  · exact Block.takes_of_not_busy (Block.not_busy_of_not_ready hfsm) p
  · simp [Block.takes, (heldOpcode_eq_false_iff _).mpr hop, hahead]

section port
variable {s : State} {p : Presentation} {rest : List Presentation}

/-- Taking a command leaves the presentations behind it at the port (R37). -/
theorem State.takeCommand_of_cons (hport : s.host.pending = p :: rest) :
    s.takeCommand = { s with host.pending := rest } := by
  simp [State.takeCommand, hport]

/-- An illegal word that is taken leaves the port and is rejected (R266, R267). -/
theorem step_of_takes_illegal {why : Illegal} (hwf : s.cfg.wf = true) (hport : s.host.pending = p :: rest)
    (htakes : s.block.takes p = true) (hdec : decode p.word = .illegal why) :
    step s = .next s.takeCommand.rejectIllegal := by
  simp [step, nextAction, portAction, hwf, hport, htakes, hdec]

end port

/-- Settles O20: the word is taken, so the step is its command's `exec`. -/
theorem stepRunsDecodedCommand : Obligations.StepRunsDecodedCommand := by
  intro s p rest i hwf hport hdec haccepted
  rw [step_of_takes hwf hport (Block.takes_of_accepted haccepted) hdec, State.takeCommand_of_cons hport]

/-- Settles O21: the word is taken, and rejecting it counts and answers ILLEGAL. -/
theorem illegalWordRejected : Obligations.IllegalWordRejected := by
  intro s p rest why hwf hport hdec haccepted
  rw [step_of_takes_illegal hwf hport (Block.takes_of_accepted haccepted) hdec, State.takeCommand_of_cons hport]
  rfl

end Sys2Proof.Machine

/-! PROOFS. Exceptions (R300 to R314): what raising an event changes, the events of one `EVAL` (R310), the level outputs
(R309), and how a step enters and leaves the halted state (R312, R313). -/

namespace Sys2Proof.Machine

/-! ### One event (R300) -/

/-- Settles O27: the counter by the rule for a raised event, and only `cnt` is written. -/
theorem eventMovesOneCounter : Obligations.EventMovesOneCounter := by
  refine fun b e f => ⟨?_, fun hne => ?_, rfl⟩
  · rw [Block.count_raise, if_pos rfl]
  · rw [Block.count_raise, if_neg hne.symm]

/-! ### The events of one `EVAL` (R310) -/

/-- `t` is `b` after the events `es`, as far as counters and mode go: each event has moved its counter by one (R300), and
only `FIELD_ERR` can have halted the block, under `FATAL_ON_FIELD_ERR = 1` (R303). -/
structure Block.Raised (cfg : Config) (b : Block) (es : List Event) (t : Block) : Prop where
  count_eq : ∀ e, t.count e = b.count e + BitVec.ofNat 32 (es.count e)
  halted_eq : t.halted = (b.halted || (cfg.fatal && es.contains .fieldErr))

/-- The events of `WINDOW_SELECT`: no window ends, or an empty one, or one whose Sample is pushed (R200 to R206, R232). -/
def windowEvents : List (List Event) := [[], [.emptyWin], [.samplePushed], [.evict, .samplePushed]]

/-- The events of the loop of `PARSE`: it reaches its end, or a field error (R160, R178). -/
def lineEvents : List (List Event) := [[], [.fieldErr]]

section raised
variable {cfg : Config} {b c t u : Block} {es fs : List Event}

/-- Where counters and mode stay, no event was raised. -/
theorem Block.raised_nil (hcnt : t.cnt = b.cnt) (hhalted : t.halted = b.halted) : b.Raised cfg [] t where
  count_eq e := by simp [Block.count, hcnt]
  halted_eq := by simp [hhalted]

/-- Raising an event other than `FIELD_ERR` (R300). -/
theorem Block.raised_raise (b : Block) {e : Event} (he : e ≠ .fieldErr) : b.Raised cfg [e] (b.raise e) where
  count_eq f := by
    rw [Block.count_raise]
    by_cases h : e = f <;> simp [h]
  halted_eq := by simp [he.symm]

/-- `FIELD_ERROR` raises `FIELD_ERR`, and may halt the block (R178, R312). -/
theorem Block.raised_fieldError (b : Block) : b.Raised cfg [.fieldErr] (b.fieldError cfg) where
  count_eq f := by
    have hcount : (b.fieldError cfg).count f = (b.raise .fieldErr).count f := by
      rw [Block.fieldError_eq]
      rfl
    rw [hcount, Block.count_raise]
    by_cases h : Event.fieldErr = f <;> simp [h]
  halted_eq := by
    rw [Block.fieldError_eq]
    simp [Bool.or_comm]

theorem Block.Raised.trans (h : b.Raised cfg es t) (h' : t.Raised cfg fs u) : b.Raised cfg (es ++ fs) u where
  count_eq e := by
    rw [h'.count_eq, h.count_eq, List.count_append, BitVec.ofNat_add, BitVec.add_assoc]
  halted_eq := by
    rw [h'.halted_eq, h.halted_eq, Bool.or_assoc, ← Bool.and_or_distrib_left, List.contains_append]

/-- `Raised` looks at the counters and the mode only. -/
theorem Block.Raised.congr (h : b.Raised cfg es t) (hcnt : c.cnt = b.cnt) (hhalted : c.halted = b.halted)
    (hcnt' : u.cnt = t.cnt) (hhalted' : u.halted = t.halted) : c.Raised cfg es u where
  count_eq e := by
    simp only [Block.count, hcnt, hcnt']
    exact h.count_eq e
  halted_eq := by rw [hhalted', hhalted, h.halted_eq]

/-- Events that halt a block have `FIELD_ERR` among them, under `FATAL_ON_FIELD_ERR = 1` (R303). -/
theorem Block.Raised.of_halts (h : b.Raised cfg es t) (hrun : b.halted = false) (hhalts : t.halted = true) :
    cfg.fatal = true ∧ .fieldErr ∈ es := by
  rwa [h.halted_eq, hrun, Bool.false_or, Bool.and_eq_true, List.contains_iff_mem] at hhalts

/-- Storing a Sample raises `SAMPLE_PUSHED` (R232). -/
theorem Block.raised_storeSample (s : Sample) (b : Block) : b.Raised cfg [.samplePushed] (b.storeSample cfg s) :=
  (Block.raised_raise { b.setSlot b.wr s with wr := nextCursor cfg b.wr } (e := .samplePushed) (by decide)).congr
    rfl rfl rfl rfl

/-- `FINALIZE` raises `EMPTY_WIN`, or pushes a Sample, which may evict one (R205, R206, R232). -/
theorem Block.raised_finalize (cfg : Config) (b : Block) : ∃ es ∈ windowEvents, b.Raised cfg es (b.finalize cfg) := by
  obtain ⟨-, heq⟩ | ⟨-, heq⟩ := b.finalize_cases cfg <;> rw [heq]
  · exact ⟨[.emptyWin], by decide, Block.raised_raise b (by decide)⟩
  · obtain ⟨-, hpush⟩ | ⟨-, hpush⟩ := b.push_cases cfg (b.finalSample cfg) <;> rw [hpush]
    · have hevict : b.Raised cfg [.evict] ((b.dropOldest cfg).raise .evict) :=
        (Block.raised_raise (b.dropOldest cfg) (by decide)).congr rfl rfl rfl rfl
      exact ⟨[.evict, .samplePushed], by decide, hevict.trans (Block.raised_storeSample _ _)⟩
    · exact ⟨[.samplePushed], by decide, Block.raised_storeSample _ _⟩

/-- `WINDOW_SELECT` raises what `FINALIZE` does, if it ends a window; `START` raises nothing (R200 to R207). -/
theorem Block.raised_selectWindow (cfg : Config) (t : Word) (b : Block) :
    ∃ es ∈ windowEvents, b.Raised cfg es (b.selectWindow cfg t) := by
  obtain ⟨-, heq⟩ | ⟨-, -, heq⟩ | ⟨-, -, heq⟩ := b.selectWindow_cases cfg t <;> rw [heq]
  · exact ⟨[], by decide, Block.raised_nil rfl rfl⟩
  · obtain ⟨es, hes, hraised⟩ := b.raised_finalize cfg
    exact ⟨es, hes, hraised.congr rfl rfl rfl rfl⟩
  · exact ⟨[], by decide, Block.raised_nil rfl rfl⟩

/-- The loop of `PARSE` raises at most one `FIELD_ERR` (R164, R178). -/
theorem Block.raised_parseLines (cfg : Config) (lines : List (List Byte)) (b : Block) :
    ∃ es ∈ lineEvents, b.Raised cfg es (b.parseLines cfg lines) := by
  obtain ⟨acc, -, heq | heq⟩ := Block.parseLines_cases cfg lines b <;> rw [heq]
  · exact ⟨[], by decide, Block.raised_nil rfl rfl⟩
  · exact ⟨[.fieldErr], by decide,
      (Block.raised_fieldError { b with acc := acc }).congr rfl rfl rfl rfl⟩

/-- The events of one `EVAL`: `CRC_FAIL` alone on a mismatch; on a match `FRAME_OK`, then those of the window, then those of
the lines (R310). -/
theorem Block.raised_eval (cfg : Config) (b : Block) :
    (crc16 b.cap ≠ hexval b.ck ∧ b.Raised cfg [.crcFail] (b.eval cfg)) ∨
    (crc16 b.cap = hexval b.ck ∧
      ∃ ws ∈ windowEvents, ∃ ls ∈ lineEvents, b.Raised cfg (.frameOk :: (ws ++ ls)) (b.eval cfg)) := by
  have hcompared {e : Event} (he : e ≠ .fieldErr) : b.Raised cfg [e] (b.recordCrc.raise e) :=
    (Block.raised_raise b.recordCrc he).congr rfl rfl rfl rfl
  obtain ⟨hne, heq⟩ | ⟨hmatch, heq⟩ := b.eval_cases cfg <;> rw [heq]
  · exact .inl ⟨hne, (hcompared (by decide)).congr rfl rfl rfl rfl⟩
  · obtain ⟨ws, hws, hwindow⟩ := Block.raised_selectWindow cfg b.now (b.recordCrc.raise .frameOk)
    obtain ⟨ls, hls, hlines⟩ :=
      Block.raised_parseLines cfg (splitLF b.cap) ((b.recordCrc.raise .frameOk).selectWindow cfg b.now)
    have hraised := (hcompared (by decide)).trans (hwindow.trans hlines)
    exact .inr ⟨hmatch, ws, hws, ls, hls, hraised.congr rfl rfl rfl rfl⟩

end raised

/-- On a match no event occurs twice in one `EVAL` (R310). -/
theorem nodup_matchEvents : ∀ ws ∈ windowEvents, ∀ ls ∈ lineEvents, (Event.frameOk :: (ws ++ ls)).Nodup := by decide

/-- Settles O30: each counter moves by the number of its events, read off for each list of events `EVAL` can raise. -/
theorem evalEvents : Obligations.EvalEvents := by
  intro cfg b t
  obtain ⟨hne, hraised⟩ | ⟨hmatch, ws, hws, ls, hls, hraised⟩ := b.raised_eval cfg
  · simp [t, hne, hraised.count_eq]
  · simp only [windowEvents, lineEvents, List.mem_cons, List.not_mem_nil, or_false] at hws hls
    obtain rfl | rfl | rfl | rfl := hws <;> obtain rfl | rfl := hls <;> simp [t, hmatch, hraised.count_eq]

/-! ### The level outputs (R309) -/

/-- The fill count is positive exactly when the slot at `rd` holds a Sample (R32, R38). -/
theorem Block.sampleReady_iff (cfg : Config) (b : Block) : b.sampleReady cfg = true ↔ b.occupied b.rd = true := by
  cases hocc : b.occupied b.rd <;> simp [Block.sampleReady, Block.rbCount, hocc]

/-- What holds of a next state of `exec` holds of the one it is known to answer. -/
theorem exists_exec_iff {i : Instr} {s u : State} (hexec : exec i s = .next u) (P : State → Prop) :
    (∃ t, exec i s = .next t ∧ P t) ↔ P u := by
  simp [hexec]

/-- `POP` answers SAMPLE exactly when the slot at `rd` holds one (R238, R239). -/
theorem popSample_responds_sample_iff (s : State) :
    (∃ ws, (popSample s).host.responses = ⟨.sample, .record ws⟩ :: s.host.responses) ↔
      s.block.occupied s.block.rd = true := by
  cases hocc : s.block.occupied s.block.rd
  · simp [popSample_of_not_occupied hocc, bareResponse]
  · simp [popSample_of_occupied hocc]

/-- `FEED` answers HALTED exactly in the halted state (R132). -/
theorem takeByte_responds_halted_iff (x : Byte) (s : State) :
    (takeByte x s).host.responses = ⟨.halted, .none⟩ :: s.host.responses ↔ s.block.halted = true := by
  cases hhalted : s.block.halted
  · simp [takeByte_of_running hhalted, bareResponse]
  · simp [takeByte_of_halted hhalted, bareResponse]

/-- A `NOP` leaves the whole state, the responses among it, exactly when it is held (R260, R340). -/
theorem exec_nop_eq_self_iff (s : State) : exec .nop s = .next s ↔ s.block.fsm = .ready := by
  refine ⟨fun hself => ?_, fun hready => exec_of_holds (Block.holds_of_ready hready rfl)⟩
  by_contra hfsm
  have hanswers : exec .nop s = .next (answerOk s) := exec_of_legal (Block.holds_of_not_ready hfsm _) rfl
  have heq : answerOk s = s := Host.Outcome.next.inj (hanswers.symm.trans hself)
  exact List.cons_ne_self _ _ (congrArg (fun u => u.host.responses) heq)

/-- Settles O15: each output by the response of the command its row names. -/
theorem levelOutputs : Obligations.LevelOutputs := by
  refine fun s => ⟨decide_eq_true_iff, rfl, s.block.busy_iff, fun hfsm => ?_, fun hfsm x => ?_, ?_⟩
  · rw [Block.sampleReady_iff, ← popSample_responds_sample_iff]
    simp only [exists_and_left]
    rw [exists_exec_iff (exec_pop_of_not_ready hfsm)]
  · rw [exists_exec_iff (exec_feed_of_not_ready hfsm x), takeByte_responds_halted_iff]
    rfl
  · exact s.block.busy_iff.trans (exec_nop_eq_self_iff s).symm

/-! ### Entering and leaving the halted state (R312, R313) -/

/-- A command other than `SRESET` leaves the mode (R303, R313). -/
theorem effectOf_halted {i : Instr} (hi : i ≠ .sreset) (s : State) :
    (effectOf i s).block.halted = s.block.halted := by
  cases i with
  | feed x =>
    change (takeByte x s).block.halted = s.block.halted
    cases hhalted : s.block.halted
    · obtain ⟨_, _, _, _, hframe⟩ := s.block.feedByte_frame s.cfg x
      simp [takeByte_of_running hhalted, hframe, hhalted]
    · simp [takeByte_of_halted hhalted, hhalted]
  | pop =>
    change (popSample s).block.halted = s.block.halted
    cases hocc : s.block.occupied s.block.rd
    · simp [popSample_of_not_occupied hocc]
    · simp [popSample_of_occupied hocc]
  | sreset => exact absurd rfl hi
  | nop | setnow | rdreg | clrstat => rfl

/-- What a command does to the mode: it resets the block, or leaves the mode (R303, R313, R331). -/
theorem exec_halted {i : Instr} {s t : State} (hexec : exec i s = .next t) :
    (i = .sreset ∧ t.block = Block.reset s.cfg) ∨ t.block.halted = s.block.halted := by
  by_cases hi : i = .sreset
  · subst hi
    rw [exec_of_legal s.block.holds_sreset rfl] at hexec
    cases hexec
    exact .inl ⟨rfl, rfl⟩
  · rw [exec_eq_accept] at hexec
    cases hexec
    right
    obtain ⟨-, heq⟩ | ⟨-, -, heq⟩ | ⟨-, -, heq⟩ := accept_cases (opcode i) i.wf (effectOf i) s <;> rw [heq]
    · exact effectOf_halted hi s
    · rfl

/-- What a step does to the mode: it leaves it, or it is an `EVAL`, or an `SRESET` (R303, R312, R313). -/
theorem step_halted {s t : State} (hstep : step s = .next t) :
    t.block.halted = s.block.halted ∨
    (s.block.fsm = .ready ∧ t.block = s.block.eval s.cfg) ∨
    (∃ p rest, s.host.pending = p :: rest ∧ decode p.word = .command .sreset ∧ t.block = Block.reset s.cfg) := by
  obtain ⟨-, heq⟩ | ⟨-, -, -, heq⟩ | ⟨-, hbusy, heq⟩ | ⟨p, rest, i, -, hport, -, hdec, heq⟩ | ⟨_, _, _, -, -, -, -, heq⟩ :=
    step_cases s <;> rw [heq] at hstep
  · cases hstep
  · cases hstep
    exact .inl rfl
  · cases hstep
    exact .inr (.inl ⟨s.block.busy_iff.mp hbusy, rfl⟩)
  · obtain ⟨rfl, hreset⟩ | hkeeps := exec_halted hstep
    · exact .inr (.inr ⟨p, rest, hport, hdec, hreset⟩)
    · exact .inl hkeeps
  · cases hstep
    exact .inl rfl

/-- `EVAL` does not leave the halted state (R313). -/
theorem Block.eval_halted_of_halted (cfg : Config) {b : Block} (h : b.halted = true) : (b.eval cfg).halted = true := by
  obtain ⟨-, hraised⟩ | ⟨-, _, -, _, -, hraised⟩ := b.raised_eval cfg <;> simp [hraised.halted_eq, h]

/-- An `EVAL` that halts the block does so under `FATAL_ON_FIELD_ERR = 1`, and counts one `FIELD_ERR` (R312). -/
theorem Block.eval_halts {cfg : Config} {b : Block} (hrun : b.halted = false) (hhalts : (b.eval cfg).halted = true) :
    cfg.fatal = true ∧ (b.eval cfg).count .fieldErr = b.count .fieldErr + 1#32 := by
  obtain ⟨-, hraised⟩ | ⟨-, ws, hws, ls, hls, hraised⟩ := b.raised_eval cfg
  · obtain ⟨-, hmem⟩ := hraised.of_halts hrun hhalts
    exact absurd hmem (by decide)
  · obtain ⟨hfatal, hmem⟩ := hraised.of_halts hrun hhalts
    refine ⟨hfatal, ?_⟩
    rw [hraised.count_eq, List.count_eq_one_of_mem (nodup_matchEvents ws hws ls hls) hmem]

/-- Settles O53: of what a step can do to the mode, only `SRESET` clears it. -/
theorem haltIsSticky : Obligations.HaltIsSticky := by
  intro s t hstep hhalted hrun
  obtain hkeeps | ⟨-, heval⟩ | hreset := step_halted hstep
  · simp [hkeeps, hhalted] at hrun
  · simp [heval, Block.eval_halted_of_halted s.cfg hhalted] at hrun
  · exact hreset

/-- Settles O54: of what a step can do to the mode, only `EVAL` sets it, and `EVAL` ends in Idle. -/
theorem haltEntry : Obligations.HaltEntry := by
  intro s t hstep hrun hhalted
  obtain hkeeps | ⟨hready, heval⟩ | ⟨_, _, -, -, hreset⟩ := step_halted hstep
  · simp [hkeeps, hrun] at hhalted
  · rw [heval] at hhalted ⊢
    obtain ⟨hfatal, hcount⟩ := Block.eval_halts hrun hhalted
    exact ⟨hready, hfatal, rfl, rfl, hcount⟩
  · simp [hreset, Block.reset] at hhalted

end Sys2Proof.Machine

/-! PROOFS. Reset and hazards (R330 to R348): the hold of a command while BUSY (R340, R342), and its end (R340, R345). -/

namespace Sys2Proof.Machine

/-! ### The hold while BUSY (R72, R340, R342) -/

/-- While BUSY a word with a held opcode stays at the port, whatever order it is presented in (R340). -/
theorem Block.takes_of_ready_held {b : Block} {p : Presentation} (hready : b.fsm = .ready)
    (hheld : heldOpcode (opOf p.word) = true) : b.takes p = false := by
  simp [Block.takes_of_busy (b.busy_iff.mpr hready), hheld]

/-- Settles O22: the held word stays at the port while `EVAL` steps, and after `EVAL` the block takes whatever is presented. -/
theorem heldWhileBusy : Obligations.HeldWhileBusy := by
  intro s p rest hwf hready hport hrdreg hsreset
  have hheld : heldOpcode (opOf p.word) = true :=
    Bool.ne_false_iff.mp fun hfree => ((heldOpcode_eq_false_iff _).mp hfree).elim hrdreg hsreset
  refine ⟨step_of_not_takes hwf hport (Block.takes_of_ready_held hready hheld), fun i hdec => ?_⟩
  have htakes : s.evaluate.block.takes p = true := Block.takes_of_not_busy (Block.busy_eval _ _) p
  calc step s.evaluate
    _ = exec i s.evaluate.takeCommand := step_of_takes hwf hport htakes hdec
    _ = exec i { s with block := s.block.eval s.cfg, host.pending := rest } := by
      rw [State.takeCommand_of_cons (s := s.evaluate) hport]
      rfl

/-! ### The end of the hold (R340, R345) -/

/-- A word that is taken, legal or not, leaves the port: the words behind it are what is still pending (R37, R268). -/
theorem step_of_takes_pending {s : State} {p : Presentation} {rest : List Presentation} (hwf : s.cfg.wf = true)
    (hport : s.host.pending = p :: rest) (htakes : s.block.takes p = true) :
    ∃ t, step s = .next t ∧ t.cfg = s.cfg ∧ t.host.pending = rest := by
  cases hdec : decode p.word with
  | command i =>
    obtain ⟨t, hexec, hcfg⟩ := exec_keeps_cfg i s.takeCommand
    have hfree : s.takeCommand.block.holds (opcode i) = false := by
      rw [← opOf_of_decode hdec]
      exact Block.holds_of_takes htakes
    obtain ⟨r, hhost⟩ := addsResponse_of_exec hfree hexec
    exact ⟨t, (step_of_takes hwf hport htakes hdec).trans hexec, hcfg, by simp [hhost, hport]⟩
  | illegal why =>
    exact ⟨_, step_of_takes_illegal hwf hport htakes hdec, rfl, by simp [hport]⟩

/-- Some run of at most `n` steps from `s` ends outside Ready. -/
def State.LeavesReadyWithin (n : Nat) (s : State) : Prop :=
  ∃ k t, k ≤ n ∧ Host.Core.run core k s = .next t ∧ t.block.fsm ≠ .ready

section leavesReady
variable {n : Nat} {s t : State}

theorem State.leavesReadyWithin_of_not_ready (h : s.block.fsm ≠ .ready) : s.LeavesReadyWithin n :=
  ⟨0, s, n.zero_le, rfl, h⟩

/-- One step more in front of a run. -/
theorem State.LeavesReadyWithin.of_step (hstep : step s = .next t) (h : t.LeavesReadyWithin n) :
    s.LeavesReadyWithin (n + 1) := by
  obtain ⟨k, u, hk, hrun, hu⟩ := h
  have hcore : core.step s = .next t := hstep
  exact ⟨k + 1, u, Nat.succ_le_succ hk, by simp only [Host.Core.run, hcore, hrun], hu⟩

/-- An `EVAL` ends the hold (R140). -/
theorem State.leavesReadyWithin_of_evaluate (hstep : step s = .next s.evaluate) : s.LeavesReadyWithin (n + 1) := by
  have hidle : s.evaluate.block.fsm = .idle := rfl
  exact .of_step hstep (leavesReadyWithin_of_not_ready (by rw [hidle]; decide))

/-- Only the words at the port can put `EVAL` off, and each of them once: a step takes the first of them or is `EVAL`. -/
theorem State.leavesReadyWithin_pending (ps : List Presentation) (hwf : s.cfg.wf = true) (hport : s.host.pending = ps) :
    s.LeavesReadyWithin (ps.length + 1) := by
  induction ps generalizing s with
  | nil =>
    cases hbusy : s.block.busy with
    | false => exact leavesReadyWithin_of_not_ready (by simp [← Block.busy_iff, hbusy])
    | true => exact leavesReadyWithin_of_evaluate (by simp [step_of_pending_nil hwf hport, hbusy])
  | cons p rest ih =>
    cases htakes : s.block.takes p with
    | false => exact leavesReadyWithin_of_evaluate (step_of_not_takes hwf hport htakes)
    | true =>
      obtain ⟨t, hstep, hcfg, hrest⟩ := step_of_takes_pending hwf hport htakes
      exact .of_step hstep (ih (hcfg ▸ hwf) hrest)

end leavesReady

/-- Settles O26, by induction on the words at the port; outside Ready there is nothing to leave, so the bound holds of every
state with an accepted configuration. -/
theorem busyEnds : Obligations.BusyEnds := fun _ hwf _ => State.leavesReadyWithin_pending _ hwf rfl

end Sys2Proof.Machine
